-- ==== Sys2Proof/Word.lean ====
section
/-! DEFINITION. The value types of the block: the spec's bits, octets, 16-bit segments and 32-bit words. -/

namespace Sys2Proof

/-- An octet (00_scope.md R8). -/
abbrev Byte := BitVec 8

/-- A 16-bit value: a segment of an address, a coordinate, a checksum (00_scope.md R6). -/
abbrev Half := BitVec 16

/-- A 32-bit word of the host register window (20_memory.md R50). -/
abbrev Word := BitVec 32

/-- An octet array `F[0..n)`; octet 0 is the first, the one first on the wire (00_scope.md R8, R9). -/
abbrev Octets (n : Nat) := Vector Byte n

end Sys2Proof
end

