-- ==== Sys2Proof/Config.lean ====
section
/-! DEFINITION. The parameters of 00_scope.md R7, and the free values: constants without a body, so
that nothing can be proved about which value they have. -/

namespace Sys2Proof.Config

/-- `P_WINDOW` (00_scope.md R7): bytes of the host register window. -/
abbrev pWindow : Nat := 1024

/-- `P_PBUF_BYTES` (00_scope.md R7): octets of the payload buffer. -/
abbrev pPbufBytes : Nat := 64

/-- `P_FBUF_BYTES` (00_scope.md R7): octets of the frame buffer. -/
abbrev pFbufBytes : Nat := 64

/-- `P_PREFIX_A` (00_scope.md R7): the Profile A prefix of the source's worked example. -/
def pPrefixA : Octets 6 := #v[0x26, 0x02, 0xfa, 0x9b, 0x02, 0x02]

/-- `P_PREFIX_B` (00_scope.md R7): OPEN, no source gives it. No step reads it: PREFIX is a register
that software writes. DESIGN CHOICE (log 10), safe: no claim can rest on its value. -/
opaque pPrefixB : Octets 8

/-- How many host accesses fall between the acceptance of the `k`-th command and the engine step
that performs it: "any finite number, including zero" (30_encoding.md R72, 70_reset_and_hazards.md
R188). DESIGN CHOICE (log 3), safe: a free value, so every finite latency is admitted. -/
opaque latency : Nat → Nat

/-- `octetBeyondPbuf k i`: what the engine step of the `k`-th command finds at payload index
`i ≥ 64`. 41_checksum.md R126 reads such an index only if PLEN > 64, which the check at issue rules
out, so no run reaches it. DESIGN CHOICE (log 5), safe: a free value. -/
opaque octetBeyondPbuf : Nat → Nat → Byte

/-- `lengthFieldBeyond L`: the length field of a pseudo-header whose payload has `L > 65535` octets.
41_checksum.md R120 defines the pseudo-header for `L ≤ 65535` only, and 91_not_in_source.md N11 says
to assume neither truncation nor wrap; no command has such a payload (R126). DESIGN CHOICE (log 20),
safe: a free value. -/
opaque lengthFieldBeyond : Nat → Half

end Sys2Proof.Config
end

