-- ==== Sys2Proof/Machine/Bytes.lean ====
section
/-! DEFINITION. Bit fields, octets of words, and the packing of octet arrays into 32-bit words
(00_scope.md R8, R10; 20_memory.md R54, R55). -/

namespace Sys2Proof.Machine

/-- `(hi << 8) | lo`: a 16-bit value of two octets (00_scope.md R10). -/
def half (hi lo : Byte) : Half := hi ++ lo

/-- Bits 15:8 of a 16-bit value. -/
def hiByte (h : Half) : Byte := h.extractLsb' 8 8

/-- Bits 7:0 of a 16-bit value. -/
def loByte (h : Half) : Byte := h.extractLsb' 0 8

/-- One bit as a 0 or a 1, for composing a register word. -/
def bit (b : Bool) : Word := if b then 1 else 0

/-- `oct(k)` of 20_memory.md R54: octet `k` of the array, 0x00 past its end. -/
def oct {n : Nat} (F : Octets n) (k : Nat) : Byte := if h : k < n then F[k] else 0

/-- `(o0 << 24) | (o1 << 16) | (o2 << 8) | o3` (20_memory.md R54). -/
def wordOf (o0 o1 o2 o3 : Byte) : Word := o0 ++ o1 ++ o2 ++ o3

/-- Octet `i` of a word, `i = 0` in bits 31:24 (20_memory.md R54). -/
def byteOf (v : Word) (i : Nat) : Byte := v.extractLsb' (24 - 8 * i) 8

/-- Word `j` of an octet array as the host reads it (20_memory.md R54). -/
def readOctets {n : Nat} (F : Octets n) (j : Nat) : Word :=
  wordOf (oct F (4 * j)) (oct F (4 * j + 1)) (oct F (4 * j + 2)) (oct F (4 * j + 3))

/-- Word `j` of an octet array after the host writes `v` to it: the four octets together, "skipping
every index `k >= n`" (20_memory.md R55). -/
def writeOctets {n : Nat} (F : Octets n) (j : Nat) (v : Word) : Octets n :=
  (((F.setIfInBounds (4 * j) (byteOf v 0)).setIfInBounds (4 * j + 1) (byteOf v 1)).setIfInBounds
    (4 * j + 2) (byteOf v 2)).setIfInBounds (4 * j + 3) (byteOf v 3)

/-- `FBUF[0..n) <- frame; FBUF[n..64) <- 0x00` (42_framer.md R146). -/
def padOctets (frame : List Byte) : Octets 64 := Vector.ofFn (fun k : Fin 64 => frame.getD k.val 0)

/-- Octets `i .. j-1` of an array, `F[i..j)` (00_scope.md R8). -/
def octetRange {n : Nat} (F : Octets n) (i j : Nat) : List Byte :=
  (List.range (j - i)).map (fun k => oct F (i + k))

end Sys2Proof.Machine
end

