-- ==== Sys2Proof/Machine/Types.lean ====
section
/-! DEFINITION. The names the spec gives: profiles, size tags, registers, error codes, host accesses
and the events that reach the block from outside. -/

namespace Sys2Proof.Machine

/-- `CTRL.PROFILE` (10_state.md R22, 40_address_encoder.md R100). -/
inductive Profile where
  /-- Profile A, `CTRL.PROFILE = 0`: 3 prefix segments, size flag. -/
  | a
  /-- Profile B, `CTRL.PROFILE = 1`: 4 prefix segments, alpha, no size flag. -/
  | b
deriving DecidableEq, Repr

/-- `PIXEL_SIZE.SIZE` (10_state.md R27). -/
inductive SizeTag where
  /-- SIZE = 0. -/
  | singlePixel
  /-- SIZE = 1. -/
  | area2x2
deriving DecidableEq, Repr

/-- The codes of a rejection (60_exceptions.md R160, R161). -/
inductive RejectCode where
  /-- Code 1, RESERVED_OP: a CMD write with a reserved opcode. -/
  | reservedOp
  /-- Code 2, CMD_BUSY: a CMD write while BUSY = 1. -/
  | cmdBusy
  /-- Code 3, PLEN_RANGE: a CMD write of CSUM while PLEN.LEN > 64. -/
  | plenRange
  /-- Code 4, WRITE_BUSY: a write of an operand or control register while BUSY = 1. -/
  | writeBusy
deriving DecidableEq, Repr

/-- The octet arrays of 10_state.md R31 to R37. -/
inductive OctetArray where
  | prefixes | srcIp | dstIp | srcMac | dstMac | pbuf | fbuf
deriving DecidableEq, Repr

/-- The number of octets of an array (10_state.md R31 to R37). -/
abbrev OctetArray.length : OctetArray → Nat
  | .prefixes => 8
  | .srcIp => 16
  | .dstIp => 16
  | .srcMac => 6
  | .dstMac => 6
  | .pbuf => 64
  | .fbuf => 64

/-- The number of 32-bit words an array takes in the window (20_memory.md R52). -/
abbrev OctetArray.words : OctetArray → Nat
  | .prefixes => 2
  | .srcIp => 4
  | .dstIp => 4
  | .srcMac => 2
  | .dstMac => 2
  | .pbuf => 16
  | .fbuf => 16

/-- The register word names of 20_memory.md R52; `octets F j` is `Fj`, word `j` of the array `F`. -/
inductive Reg where
  | ctrl | status | cmd | plen | pixelXy | pixelSize | pixelRgba | csum | flen
  | octets (arr : OctetArray) (j : Fin arr.words)
deriving DecidableEq, Repr

/-- One host access of the window: its width in bits, its offset, and a write's value
(20_memory.md R50, R51). Any width and any offset can be asked for; which are legal is R51's. -/
inductive Access where
  | read (width off : Nat)
  | write (width off : Nat) (v : Word)
deriving DecidableEq, Repr

/-- What reaches the block from outside: a line of a host script (30_encoding.md R76, R77), or the
platform's reset (70_reset_and_hazards.md R180). -/
inductive HostEvent where
  /-- `wr` or `rd` (R76). -/
  | access (a : Access)
  /-- `wait` (R77): read STATUS until DONE or ERR is 1, one read a step. -/
  | wait
  /-- `waitdone` (R77): read STATUS until DONE is 1, one read a step. -/
  | waitdone
  /-- The platform asserts the block's reset (R180). -/
  | reset
deriving DecidableEq, Repr

end Sys2Proof.Machine
end

