-- ==== Sys2Proof/Machine/State.lean ====
section
/-! DEFINITION. The machine's state, its reset, and the reasons a step can stop. -/

namespace Sys2Proof.Machine

/-- The state of the block (10_state.md R20: "exactly the registers and octet arrays of rules R22 to
R38"), and the model's own fields `script`, `reads`, `delay` and `accepted`. A register with
reserved bits is held as its fields: reserved bits read 0 and hold nothing (20_memory.md R53;
DESIGN CHOICE, log 8, safe). CMD has no field: it stores nothing (10_state.md R24). -/
@[ext]
structure State where
  /-- CTRL.PROFILE (R22). -/
  profile : Profile
  /-- CTRL.LINK_EN (R22). -/
  linkEn : Bool
  /-- STATUS.BUSY (R23). -/
  busy : Bool
  /-- STATUS.DONE (R23). -/
  done : Bool
  /-- STATUS.ERR (R23). -/
  err : Bool
  /-- STATUS.XRANGE (R23). -/
  xrange : Bool
  /-- STATUS.ERRCODE (R23, 60_exceptions.md R161). -/
  errcode : BitVec 4
  /-- PLEN.LEN (R25). -/
  plen : Half
  /-- PIXEL_XY (R26): X in bits 15:0, Y in bits 31:16. -/
  pixelXy : Word
  /-- PIXEL_SIZE.SIZE (R27). -/
  pixelSize : SizeTag
  /-- PIXEL_RGBA (R28): R, G, B, A from the most significant octet down. -/
  pixelRgba : Word
  /-- CSUM.VALUE (R29). -/
  csum : Half
  /-- FLEN.LEN (R30). -/
  flen : Half
  /-- PREFIX (R31). -/
  prefixes : Octets 8
  /-- SRC_IP (R32). -/
  srcIp : Octets 16
  /-- DST_IP (R33). -/
  dstIp : Octets 16
  /-- SRC_MAC (R34). -/
  srcMac : Octets 6
  /-- DST_MAC (R35). -/
  dstMac : Octets 6
  /-- PBUF (R36). -/
  pbuf : Octets 64
  /-- FBUF (R37). -/
  fbuf : Octets 64
  /-- PENDING_OP (R38), hidden: the opcode of the accepted command while BUSY = 1. -/
  pendingOp : BitVec 4
  /-- The MODEL's own (log 2): the events that will reach the block, in order. -/
  script : List HostEvent
  /-- The MODEL's own (log 2): offset and value of every read performed, newest first. -/
  reads : List (Nat × Word)
  /-- The MODEL's own (log 3): while BUSY = 1, the host accesses still to fall before the engine
  step; taken from `Config.latency` at acceptance. -/
  delay : Nat
  /-- The MODEL's own (logs 3, 5): how many commands were accepted; the free values' counter. -/
  accepted : Nat
deriving DecidableEq, Repr

/-- Why the machine stops with a fault. -/
inductive Fault where
  /-- `raise BusError(off)` (20_memory.md R51, 60_exceptions.md R166): a host access that is not 32
  bits or not at a multiple of 4. Raised by the host's step; the block's state does not change. "A
  model treats `raise BusError(off)` as a fault of the host agent, naming the offending access".
  Safe (log 12): the run stops where hardware would answer an error and go on. -/
  | busError (a : Access)
deriving DecidableEq, Repr

/-- Why the machine has no meaning for a step. -/
inductive Refusal where
  /-- An instruction without a meaning, by its mnemonic; no arm of `exec` answers it in this model.
  Safe: nothing is claimed. -/
  | notModelled (mnemonic : String)
  /-- A host access at an offset at or above 0x400: outside the window, "not decoded by the block"
  (20_memory.md R51; 93_implementation_defined.md I12: refuse). Raised by the host's step. Safe
  (log 7): nothing is claimed of the platform. -/
  | outsideWindow (a : Access)
  /-- An engine step while PENDING_OP holds a reserved opcode. No run reaches it: PENDING_OP holds
  the opcode of an ACCEPTED command while BUSY = 1 (10_state.md R38, 30_encoding.md R72). Raised by
  the engine's step. Safe (log 6): nothing is claimed. -/
  | reservedPendingOp (op : BitVec 4)
deriving DecidableEq, Repr

/-- The state right after reset (70_reset_and_hazards.md R180, values of 10_state.md R22 to R38):
zero everywhere, but for the alpha octet of PIXEL_RGBA; Profile A is `P_RESET_PROFILE` (00_scope.md
R7). The model's own fields are empty or 0 (DESIGN CHOICE, log 4). -/
def State.reset : State where
  profile := .a
  linkEn := false
  busy := false
  done := false
  err := false
  xrange := false
  errcode := 0
  plen := 0
  pixelXy := 0
  pixelSize := .singlePixel
  pixelRgba := 0x000000FF
  csum := 0
  flen := 0
  prefixes := Vector.replicate 8 0
  srcIp := Vector.replicate 16 0
  dstIp := Vector.replicate 16 0
  srcMac := Vector.replicate 6 0
  dstMac := Vector.replicate 6 0
  pbuf := Vector.replicate 64 0
  fbuf := Vector.replicate 64 0
  pendingOp := 0
  script := []
  reads := []
  delay := 0
  accepted := 0

end Sys2Proof.Machine
end

