-- ==== Sys2Proof/Machine/Operands.lean ====
section
/-! DEFINITION. The operands of the commands, as 30_encoding.md R74 takes them from the registers:
no sign extension, no scaling. -/

namespace Sys2Proof.Machine

/-- `x = PIXEL_XY[15:0]` (R74). -/
def opX (s : State) : Half := s.pixelXy.extractLsb' 0 16

/-- `y = PIXEL_XY[31:16]` (R74). -/
def opY (s : State) : Half := s.pixelXy.extractLsb' 16 16

/-- `r = PIXEL_RGBA[31:24]` (R74). -/
def opR (s : State) : Byte := s.pixelRgba.extractLsb' 24 8

/-- `g = PIXEL_RGBA[23:16]` (R74). -/
def opG (s : State) : Byte := s.pixelRgba.extractLsb' 16 8

/-- `b = PIXEL_RGBA[15:8]` (R74). -/
def opB (s : State) : Byte := s.pixelRgba.extractLsb' 8 8

/-- `a = PIXEL_RGBA[7:0]` (R74). -/
def opA (s : State) : Byte := s.pixelRgba.extractLsb' 0 8

/-- `sizecode = PIXEL_SIZE.SIZE + 1` (40_address_encoder.md R105). -/
def sizeCode : SizeTag → BitVec 2
  | .singlePixel => 1
  | .area2x2 => 2

/-- Payload octet `k` of the CSUM command: `PBUF[k]`; past the buffer's end, where no run reads, a
free value (log 5). -/
def payloadOctet (s : State) (k : Nat) : Byte :=
  if h : k < Config.pPbufBytes then s.pbuf[k] else Config.octetBeyondPbuf s.accepted k

/-- `PBUF[0..PLEN.LEN)` (41_checksum.md R126). -/
def payload (s : State) : List Byte := (List.range s.plen.toNat).map (payloadOctet s)

end Sys2Proof.Machine
end

