-- ==== Sys2Proof/Machine/RegMap.lean ====
section
/-! DEFINITION. The register map of the host window (20_memory.md R52) and the codes the fields are
read and written with. -/

namespace Sys2Proof.Machine

/-- The offset of an array's word 0 (20_memory.md R52). -/
def arrayBase : OctetArray → Nat
  | .prefixes => 0x030
  | .srcIp => 0x040
  | .dstIp => 0x050
  | .srcMac => 0x060
  | .dstMac => 0x068
  | .pbuf => 0x100
  | .fbuf => 0x200

/-- The offset of a register word (20_memory.md R52, R54). -/
def regOffset : Reg → Nat
  | .ctrl => 0x000
  | .status => 0x004
  | .cmd => 0x008
  | .plen => 0x00C
  | .pixelXy => 0x010
  | .pixelSize => 0x014
  | .pixelRgba => 0x018
  | .csum => 0x01C
  | .flen => 0x020
  | .octets arr j => arrayBase arr + 4 * j.val

/-- The register word of an array at an offset, if the offset is one of its words. -/
def arrayWordAt (arr : OctetArray) (off : Nat) : Option Reg :=
  if h : arrayBase arr ≤ off ∧ (off - arrayBase arr) / 4 < arr.words then
    some (.octets arr ⟨(off - arrayBase arr) / 4, h.2⟩)
  else none

/-- The register word at an offset below 0x024, none of the octet arrays. -/
def scalarAt (off : Nat) : Option Reg :=
  if off = 0x000 then some .ctrl
  else if off = 0x004 then some .status
  else if off = 0x008 then some .cmd
  else if off = 0x00C then some .plen
  else if off = 0x010 then some .pixelXy
  else if off = 0x014 then some .pixelSize
  else if off = 0x018 then some .pixelRgba
  else if off = 0x01C then some .csum
  else if off = 0x020 then some .flen
  else none

/-- The register word at an offset; `none` is a reserved offset, or no multiple of 4
(20_memory.md R52: "Every word offset not listed is reserved"). -/
def regAt (off : Nat) : Option Reg :=
  if off % 4 = 0 then
    (scalarAt off).or <| (arrayWordAt .prefixes off).or <| (arrayWordAt .srcIp off).or <|
      (arrayWordAt .dstIp off).or <| (arrayWordAt .srcMac off).or <| (arrayWordAt .dstMac off).or <|
        (arrayWordAt .pbuf off).or (arrayWordAt .fbuf off)
  else none

/-- The read-only registers, whose writes are ignored (20_memory.md R56). -/
def readOnly : Reg → Bool
  | .csum => true
  | .flen => true
  | .octets .fbuf _ => true
  | _ => false

/-- CTRL.PROFILE as a bit (10_state.md R22). -/
def profileBit : Profile → Bool
  | .a => false
  | .b => true

/-- CTRL.PROFILE from a bit (10_state.md R22). -/
def profileOf (b : Bool) : Profile := if b then .b else .a

/-- PIXEL_SIZE.SIZE as a bit (10_state.md R27). -/
def sizeBit : SizeTag → Bool
  | .singlePixel => false
  | .area2x2 => true

/-- PIXEL_SIZE.SIZE from a bit (10_state.md R27). -/
def sizeOf (b : Bool) : SizeTag := if b then .area2x2 else .singlePixel

/-- STATUS.ERRCODE of a rejection (60_exceptions.md R161). -/
def rejectCode : RejectCode → BitVec 4
  | .reservedOp => 1
  | .cmdBusy => 2
  | .plenRange => 3
  | .writeBusy => 4

end Sys2Proof.Machine
end

