-- ==== Sys2Proof/Machine/Flags.lean ====
section
/-! DEFINITION. STATUS, the block's only flag register (10_state.md R23): every update of it. -/

namespace Sys2Proof.Machine

/-- The condition of the XRANGE warning: Profile A and x > 0x0FFF (60_exceptions.md R167). -/
def xOutOfRange (s : State) : Bool := decide (s.profile = .a) && decide (0x0FFF < (opX s).toNat)

/-- `raise Reject(code)` (60_exceptions.md R162): the first rejection since ERR was last 0 is
recorded, a later one is not; nothing else changes. The block's one way of taking an error. -/
def reject (s : State) (c : RejectCode) : State :=
  if s.err then s else { s with err := true, errcode := rejectCode c }

/-- The last line of every command: `STATUS.BUSY <- 0; STATUS.DONE <- 1` (30_encoding.md R72). -/
def complete (s : State) : State := { s with busy := false, done := true }

/-- `STATUS.DONE <- 0`, on every CMD write (30_encoding.md R72) and on a W1C of DONE. -/
def clearDone (s : State) : State := { s with done := false }

/-- `if prof = 0 and x > 0x0FFF: STATUS.XRANGE <- 1` (40_address_encoder.md R107): set only. -/
def warnXrange (s : State) : State := { s with xrange := s.xrange || xOutOfRange s }

/-- A host write of `v` to STATUS (60_exceptions.md R165): bits 1, 2 and 3 written as 1 clear DONE,
ERR with ERRCODE, and XRANGE; every other bit of `v` is ignored (10_state.md R23). -/
def writeStatus (s : State) (v : Word) : State :=
  { s with
    done := s.done && !v[1]
    err := s.err && !v[2]
    errcode := if v[2] then 0 else s.errcode
    xrange := s.xrange && !v[3] }

/-- STATUS as the host reads it: BUSY, DONE, ERR, XRANGE in bits 0 to 3, ERRCODE in bits 7:4, bits
31:8 zero (10_state.md R23). -/
def statusWord (s : State) : Word :=
  bit s.busy ||| (bit s.done <<< 1) ||| (bit s.err <<< 2) ||| (bit s.xrange <<< 3) |||
    (s.errcode.zeroExtend 32 <<< 4)

end Sys2Proof.Machine
end

