-- ==== Sys2Proof/Machine/Checksum.lean ====
section
/-! DEFINITION. The checksum engine: the function of 41_checksum.md R120 to R123, the CSUM command,
and the big-endian computation R128 compares it with. -/

namespace Sys2Proof.Machine

/-- The 38 octets `PH(src, dst, L)` (R120): addresses, 16-bit big-endian length, three zeros, 58. -/
def pseudoHeader (src dst : Octets 16) (len : Half) : List Byte :=
  src.toList ++ dst.toList ++ [hiByte len, loByte len] ++ [0x00, 0x00, 0x00] ++ [0x3A]

/-- The length field of the pseudo-header for a payload of `len` octets (R120, "0 ≤ L ≤ 65535"); the
spec gives none for a longer payload, where it is a free value (DESIGN CHOICE, log 20). -/
def lengthField (len : Nat) : Half :=
  if len ≤ 65535 then BitVec.ofNat 16 len else Config.lengthFieldBeyond len

/-- The word sum of R122: the first octet of a pair is the low half, the second the high half; an
odd last octet has a high half of 0. An unbounded non-negative integer. -/
def wordSum : List Byte → Nat
  | [] => 0
  | [o] => o.toNat
  | o :: p :: rest => (o.toNat ||| (p.toNat <<< 8)) + wordSum rest

/-- The loop of R123, at most `fuel` times: `S := (S & 0xFFFF) + (S >> 16)` while S > 0xFFFF. -/
def foldSteps : Nat → Nat → Nat
  | 0, sum => sum
  | fuel + 1, sum =>
    if 0xFFFF < sum then foldSteps fuel ((sum &&& 0xFFFF) + (sum >>> 16)) else sum

/-- The fold of R123: a step makes a sum above 0xFFFF smaller, so as many steps as the sum itself
reach the end of the loop (log 16). -/
def foldSum (sum : Nat) : Nat := foldSteps sum sum

/-- `C := (~S) & 0xFFFF` of the folded word sum (R122, R123). -/
def onesComplement (stream : List Byte) : Half := ~~~(BitVec.ofNat 16 (foldSum (wordSum stream)))

/-- `Checksum(src, dst, p)` (R121): of the pseudo-header followed by the payload (R120). For a payload
above 65535 octets, which R120 does not define, its length field is a free value (log 20). -/
def checksum (src dst : Octets 16) (p : List Byte) : Half :=
  onesComplement (pseudoHeader src dst (lengthField p.length) ++ p)

/-- CSUM, the engine step with PENDING_OP = 0x2 (R126). -/
def execCsum (s : State) : Host.Outcome State Fault Refusal :=
  .next (complete { s with csum := checksum s.srcIp s.dstIp (payload s) })

/-! ### The computation R128 compares with: no command runs it -/

/-- The word sum with the first octet of a pair as the HIGH half (R128, 90_conflicts.md C2). -/
def wordSumBigEndian : List Byte → Nat
  | [] => 0
  | [o] => o.toNat <<< 8
  | o :: p :: rest => ((o.toNat <<< 8) ||| p.toNat) + wordSumBigEndian rest

/-- The 40-octet pseudo-header with a 32-bit length field (R128, 90_conflicts.md C3). -/
def pseudoHeader40 (src dst : Octets 16) (len : Word) : List Byte :=
  src.toList ++ dst.toList ++ [byteOf len 0, byteOf len 1, byteOf len 2, byteOf len 3] ++
    [0x00, 0x00, 0x00] ++ [0x3A]

/-- The usual big-endian computation over the 40-octet pseudo-header (R128, 95_test_vectors.md V18),
"for every L ≤ 65535": its 32-bit length field is the 16-bit one with zeros above it, for a longer
payload the same free value (log 20). -/
def checksumBigEndian (src dst : Octets 16) (p : List Byte) : Half :=
  ~~~(BitVec.ofNat 16
    (foldSum (wordSumBigEndian
      (pseudoHeader40 src dst ((lengthField p.length).zeroExtend 32) ++ p))))

end Sys2Proof.Machine
end

