-- ==== Sys2Proof/Machine/Encoder.lean ====
section
/-! DEFINITION. The address encoder: the ENCODE command (40_address_encoder.md), and the reference
inverse Decode. -/

namespace Sys2Proof.Machine

/-- The 8 segments of an address, by R102 under Profile A and by R103 under Profile B. -/
def encodeSegments (profile : Profile) (pre : Octets 8) (x y : Half) (r g b a : Byte)
    (code : BitVec 2) : Vector Half 8 :=
  match profile with
  | .a =>
    #v[half pre[0] pre[1], half pre[2] pre[3], half pre[4] pre[5],
       x ||| (code.zeroExtend 16 <<< 12), y, r.zeroExtend 16, g.zeroExtend 16, b.zeroExtend 16]
  | .b =>
    #v[half pre[0] pre[1], half pre[2] pre[3], half pre[4] pre[5], half pre[6] pre[7],
       x, y, half b g, half r a]

/-- `A[2i] <- seg[i][15:8]`, `A[2i+1] <- seg[i][7:0]` (R101). -/
def segmentOctets (seg : Vector Half 8) : Octets 16 :=
  #v[hiByte seg[0], loByte seg[0], hiByte seg[1], loByte seg[1],
     hiByte seg[2], loByte seg[2], hiByte seg[3], loByte seg[3],
     hiByte seg[4], loByte seg[4], hiByte seg[5], loByte seg[5],
     hiByte seg[6], loByte seg[6], hiByte seg[7], loByte seg[7]]

/-- `Encode(profile, prefix, x, y, r, g, b, a, sizecode)` (R101): total, no failure mode (R104). -/
def encodeAddress (profile : Profile) (pre : Octets 8) (x y : Half) (r g b a : Byte)
    (code : BitVec 2) : Octets 16 :=
  segmentOctets (encodeSegments profile pre x y r g b a code)

/-- The body of ENCODE without its last line (R107), shared with ENCODE_BUILD (42_framer.md R148). -/
def encodeBody (s : State) : State :=
  warnXrange { s with
    dstIp := encodeAddress s.profile s.prefixes (opX s) (opY s) (opR s) (opG s) (opB s) (opA s)
      (sizeCode s.pixelSize) }

/-- ENCODE, the engine step with PENDING_OP = 0x1 (R107). It raises nothing for any input. -/
def execEncode (s : State) : Host.Outcome State Fault Refusal := .next (complete (encodeBody s))

/-! ### The reference inverse (R108): no command runs it -/

/-- Segment `i` of an address: `(A[2i] << 8) | A[2i+1]` (00_scope.md R10). -/
def segment (A : Octets 16) (i : Fin 8) : Half := half (A[2 * i.val]) (A[2 * i.val + 1])

/-- What Decode recovers: size under Profile A, alpha under Profile B (R108). -/
structure Decoded where
  x : Half
  y : Half
  r : Byte
  g : Byte
  b : Byte
  a : Option Byte
  size : Option SizeTag
deriving DecidableEq, Repr

/-- The first `n` octets of the address are those of the prefix (R108: "if seg[0..3) differ from the
segments of prefix[0..6): return none", and 4 segments under Profile B). -/
def prefixMatches (n : Nat) (pre : Octets 8) (A : Octets 16) : Bool :=
  (List.range n).all (fun k => oct A k == oct pre k)

/-- The size tag of a size code: 1 SinglePixel, 2 Area2x2, no other (R108). -/
def sizeOfCode (code : BitVec 4) : Option SizeTag :=
  if code = 1 then some .singlePixel else if code = 2 then some .area2x2 else none

/-- `Decode(profile, prefix, A)` (R108). -/
def decodeAddress (profile : Profile) (pre : Octets 8) (A : Octets 16) : Option Decoded :=
  match profile with
  | .a =>
    if prefixMatches 6 pre A then
      match sizeOfCode ((segment A 3).extractLsb' 12 4) with
      | none => none
      | some size =>
        if 0xFF < (segment A 5).toNat ∨ 0xFF < (segment A 6).toNat ∨ 0xFF < (segment A 7).toNat then
          none
        else
          some { x := ((segment A 3).extractLsb' 0 12).zeroExtend 16, y := segment A 4,
                 r := loByte (segment A 5), g := loByte (segment A 6), b := loByte (segment A 7),
                 a := none, size := some size }
    else none
  | .b =>
    if prefixMatches 8 pre A then
      some { x := segment A 4, y := segment A 5,
             b := hiByte (segment A 6), g := loByte (segment A 6),
             r := hiByte (segment A 7), a := some (loByte (segment A 7)), size := none }
    else none

end Sys2Proof.Machine
end

