-- ==== Sys2Proof/Machine/Framer.lean ====
section
/-! DEFINITION. The packet framer: the BUILD and ENCODE_BUILD commands (42_framer.md). -/

namespace Sys2Proof.Machine

/-- `base`, where the IPv6 header begins: 14 with the link header, else 0 (R140). -/
def frameBase (link : Bool) : Nat := if link then 14 else 0

/-- The link header, when there is one: destination MAC, source MAC, ethertype 0x86DD (R142). -/
def linkHeader (link : Bool) (smac dmac : Octets 6) : List Byte :=
  if link then dmac.toList ++ smac.toList ++ [0x86, 0xDD] else []

/-- The 40-octet IPv6 header (R143). -/
def ipHeader (src dst : Octets 16) : List Byte :=
  [0x60, 0x08, 0x0A, 0xF4] ++ [0x00, 0x08] ++ [0x3A] ++ [0x40] ++ src.toList ++ dst.toList

/-- The 8-octet ICMPv6 echo request with checksum octets `c2`, `c3` (R144). -/
def icmpMessage (c2 c3 : Byte) : List Byte := [0x80, 0x00, c2, c3, 0x00, 0x69, 0x00, 0x01]

/-- `C := Checksum(src, dst, icmp)` over the message with a zero checksum (R141, R145). -/
def frameChecksum (src dst : Octets 16) : Half := checksum src dst (icmpMessage 0x00 0x00)

/-- The frame of `Build(link, smac, dmac, src, dst)` (R141): the checksum patched in low byte first
(R145). -/
def frameOctets (link : Bool) (smac dmac : Octets 6) (src dst : Octets 16) : List Byte :=
  linkHeader link smac dmac ++ ipHeader src dst ++
    icmpMessage (loByte (frameChecksum src dst)) (hiByte (frameChecksum src dst))

/-- The body of BUILD without its last line (R147), shared with ENCODE_BUILD (R148). -/
def buildBody (s : State) : State :=
  let frame := frameOctets s.linkEn s.srcMac s.dstMac s.srcIp s.dstIp
  { s with
    fbuf := padOctets frame
    flen := BitVec.ofNat 16 frame.length
    csum := frameChecksum s.srcIp s.dstIp }

/-- BUILD, the engine step with PENDING_OP = 0x3 (R147). -/
def execBuild (s : State) : Host.Outcome State Fault Refusal := .next (complete (buildBody s))

/-- ENCODE_BUILD, the engine step with PENDING_OP = 0x4 (R148): the body of ENCODE, then the body of
BUILD reading the new DST_IP, in one step. -/
def execEncodeBuild (s : State) : Host.Outcome State Fault Refusal :=
  .next (complete (buildBody (encodeBody s)))

end Sys2Proof.Machine
end

