-- ==== Sys2Proof/Syntax.lean ====
section
/-! DEFINITION. The commands of spec/opcode_table.json (30_encoding.md R71). -/

namespace Sys2Proof

/-- One constructor per row of the opcode table. No command has an operand field: every operand is
an operand register (30_encoding.md R70, R73), and bits 31:4 of the command word are ignored. -/
inductive Instr where
  /-- `ENCODE`, OP 0x1: `DST_IP <- Encode(...)` (40_address_encoder.md R107). -/
  | encode
  /-- `CSUM`, OP 0x2: `CSUM <- Checksum(...)` (41_checksum.md R126). -/
  | csum
  /-- `BUILD`, OP 0x3: `FBUF, FLEN, CSUM <- Build(...)` (42_framer.md R147). -/
  | build
  /-- `ENCODE_BUILD`, OP 0x4: ENCODE then BUILD in one step (42_framer.md R148). -/
  | encodeBuild
deriving DecidableEq, Repr

end Sys2Proof
end

