-- ==== Sys2Proof/Machine/Dispatch.lean ====
section
/-! DEFINITION. One arm per command: the engine step that performs it (30_encoding.md R72). -/

namespace Sys2Proof.Machine

def exec (i : Instr) (s : State) : Host.Outcome State Fault Refusal :=
  match i with
  | .encode => Sys2Proof.Machine.execEncode s
  | .csum => Sys2Proof.Machine.execCsum s
  | .build => Sys2Proof.Machine.execBuild s
  | .encodeBuild => Sys2Proof.Machine.execEncodeBuild s

end Sys2Proof.Machine
end

