-- ==== Sys2Proof/WellFormed.lean ====
section
/-! DEFINITION. Which instructions, accesses and events are well formed. -/

namespace Sys2Proof

/-- A command has no operand, so each one is well formed as it stands (30_encoding.md R70: "No
immediate operand exists"). -/
def Instr.wf : Instr → Bool
  | .encode => true
  | .csum => true
  | .build => true
  | .encodeBuild => true

namespace Machine

/-- The width of an access in bits. -/
abbrev Access.width : Access → Nat
  | .read w _ => w
  | .write w _ _ => w

/-- The window offset of an access. -/
abbrev Access.offset : Access → Nat
  | .read _ off => off
  | .write _ off _ => off

/-- The offset lies in the block's window (20_memory.md R50, R51). -/
def Access.inWindow (a : Access) : Bool := decide (a.offset < Config.pWindow)

/-- A 32-bit access at a multiple of 4: not a bus error (20_memory.md R51). -/
def Access.aligned32 (a : Access) : Bool := decide (a.width = 32) && decide (a.offset % 4 = 0)

/-- An access the block performs: inside the window, 32 bits, at a multiple of 4
(20_memory.md R50). -/
def Access.wf (a : Access) : Bool := a.inWindow && a.aligned32

/-- An event is well formed when the access it makes is. -/
def HostEvent.wf : HostEvent → Bool
  | .access a => a.wf
  | .wait => true
  | .waitdone => true
  | .reset => true

end Machine

end Sys2Proof
end

