-- ==== Sys2Proof/Decode.lean ====
section
/-! DEFINITION. The command decoder, the encoder written from the same table, and the printed form
of a command word (30_encoding.md R70, R71, R75, R78). -/

namespace Sys2Proof

/-- Why a command word is no command. -/
inductive DecodeError where
  /-- The opcode 0x0 or 0x5 to 0xF is reserved (30_encoding.md R75). -/
  | reservedOpcode (op : BitVec 4)
deriving DecidableEq, Repr

/-- The opcode field OP of a command word, bits 3:0 (30_encoding.md R70). -/
def opField (v : Word) : BitVec 4 := v.extractLsb' 0 4

/-- The opcode map of 30_encoding.md R71. -/
def decodeOp (op : BitVec 4) : Except DecodeError Instr :=
  match op.toNat with
  | 1 => .ok .encode
  | 2 => .ok .csum
  | 3 => .ok .build
  | 4 => .ok .encodeBuild
  | _ => .error (.reservedOpcode op)

/-- The command of a word: "A decoder tells the command from `v[3:0]` alone" (30_encoding.md R70).
Total: every word is a command or is rejected by name. -/
def decode (v : Word) : Except DecodeError Instr := decodeOp (opField v)

/-- The opcode of a command (30_encoding.md R71). -/
def opcode : Instr → BitVec 4
  | .encode => 0x1
  | .csum => 0x2
  | .build => 0x3
  | .encodeBuild => 0x4

/-- The command word of a command, the one its pseudo-operation writes (30_encoding.md R77): the
ignored bits 31:4 are 0. -/
def encode (i : Instr) : Word := (opcode i).zeroExtend 32

/-- The instruction read from the table's word: a command is one 32-bit word, so the bits that the
table gives no number are the ignored bits 31:4, here 0. -/
def decodeTableWord (nbits w : Nat) : Option Instr :=
  match decode (BitVec.ofNat 32 (w % 2 ^ nbits)) with
  | .ok i => some i
  | .error _ => none

/-! ### Printing (30_encoding.md R78) -/

/-- The printed name of a command: its mnemonic in lower case. -/
def mnemonicText : Instr → List Char
  | .encode => ['e', 'n', 'c', 'o', 'd', 'e']
  | .csum => ['c', 's', 'u', 'm']
  | .build => ['b', 'u', 'i', 'l', 'd']
  | .encodeBuild => ['e', 'n', 'c', 'o', 'd', 'e', '_', 'b', 'u', 'i', 'l', 'd']

/-- One hexadecimal digit, capital letters (log 14). -/
def hexDigit (d : BitVec 4) : Char :=
  ['0', '1', '2', '3', '4', '5', '6', '7', '8', '9', 'A', 'B', 'C', 'D', 'E', 'F'].getD d.toNat '0'

/-- The value of a hexadecimal digit, capital or small (95_test_vectors.md writes both). -/
def hexValue (c : Char) : Option (BitVec 4) :=
  match ['0', '1', '2', '3', '4', '5', '6', '7', '8', '9', 'A', 'B', 'C', 'D', 'E', 'F'].idxOf? c with
  | some n => some (BitVec.ofNat 4 n)
  | none =>
    match ['a', 'b', 'c', 'd', 'e', 'f'].idxOf? c with
    | some n => some (BitVec.ofNat 4 (10 + n))
    | none => none

/-- The eight digits of a word, most significant first. -/
def hexText (v : Word) : List Char :=
  [hexDigit (v.extractLsb' 28 4), hexDigit (v.extractLsb' 24 4), hexDigit (v.extractLsb' 20 4),
   hexDigit (v.extractLsb' 16 4), hexDigit (v.extractLsb' 12 4), hexDigit (v.extractLsb' 8 4),
   hexDigit (v.extractLsb' 4 4), hexDigit (v.extractLsb' 0 4)]

/-- The text before the digits of a reserved word. -/
def wordDirective : List Char := ['.', 'w', 'o', 'r', 'd', ' ', '0', 'x']

/-- The comment after the digits of a reserved word. -/
def reservedComment : List Char := [' ', ';', ' ', 'r', 'e', 's', 'e', 'r', 'v', 'e', 'd']

/-- The printed form of a command word: "the mnemonic of `v[3:0]` ... in lower case, or as
`.word 0xVVVVVVVV ; reserved` when `v[3:0]` is reserved" (30_encoding.md R78). -/
def printCommand (v : Word) : List Char :=
  match decode v with
  | .ok i => mnemonicText i
  | .error _ => wordDirective ++ hexText v ++ reservedComment

/-- The value of a run of digits, most significant first, none if one is no digit. -/
def hexRun : List Char → Nat → Option Nat
  | [], acc => some acc
  | c :: cs, acc =>
    match hexValue c with
    | some d => hexRun cs (acc * 16 + d.toNat)
    | none => none

/-- The word a printed command stands for: a mnemonic is its command word, a `.word` line its eight
digits; "`;` starts a comment" (30_encoding.md R76). -/
def parseCommand (t : List Char) : Option Word :=
  if t = mnemonicText .encode then some (encode .encode)
  else if t = mnemonicText .csum then some (encode .csum)
  else if t = mnemonicText .build then some (encode .build)
  else if t = mnemonicText .encodeBuild then some (encode .encodeBuild)
  else if t.take 8 = wordDirective then
    match (t.drop 8).takeWhile (fun c => c ≠ ' ' && c ≠ ';') with
    | [c7, c6, c5, c4, c3, c2, c1, c0] =>
      (hexRun [c7, c6, c5, c4, c3, c2, c1, c0] 0).map (BitVec.ofNat 32)
    | _ => none
  else none

end Sys2Proof
end

