-- ==== Sys2Proof/Machine/Ops.lean ====
section
/-! DEFINITION. The named operations on registers: reading and writing a register word, the host
write dispatch, issuing a command, the bus response of an access, and reset. -/

namespace Sys2Proof.Machine

/-- The octet array of that name. -/
def getArray (s : State) : (arr : OctetArray) → Octets arr.length
  | .prefixes => s.prefixes
  | .srcIp => s.srcIp
  | .dstIp => s.dstIp
  | .srcMac => s.srcMac
  | .dstMac => s.dstMac
  | .pbuf => s.pbuf
  | .fbuf => s.fbuf

/-- The state with the octet array of that name replaced. -/
def setArray (s : State) : (arr : OctetArray) → Octets arr.length → State
  | .prefixes, F => { s with prefixes := F }
  | .srcIp, F => { s with srcIp := F }
  | .dstIp, F => { s with dstIp := F }
  | .srcMac, F => { s with srcMac := F }
  | .dstMac, F => { s with dstMac := F }
  | .pbuf, F => { s with pbuf := F }
  | .fbuf, F => { s with fbuf := F }

/-- The value of a register word: "its current value composed from its fields with reserved bits 0";
CMD reads 0 (20_memory.md R54, R56). -/
def readReg (s : State) : Reg → Word
  | .ctrl => bit (profileBit s.profile) ||| (bit s.linkEn <<< 1)
  | .status => statusWord s
  | .cmd => 0
  | .plen => s.plen.zeroExtend 32
  | .pixelXy => s.pixelXy
  | .pixelSize => bit (sizeBit s.pixelSize)
  | .pixelRgba => s.pixelRgba
  | .csum => s.csum.zeroExtend 32
  | .flen => s.flen.zeroExtend 32
  | .octets arr j => readOctets (getArray s arr) j.val

/-- The last line of 20_memory.md R57: the fields of the register are written from `v`, reserved
bits ignored. STATUS and CMD have writes of their own, and the read-only registers ignore a write
(R56): here all of these are left as they are. -/
def writeReg (s : State) (r : Reg) (v : Word) : State :=
  match r with
  | .ctrl => { s with profile := profileOf (v[0]), linkEn := v[1] }
  | .status => s
  | .cmd => s
  | .plen => { s with plen := v.extractLsb' 0 16 }
  | .pixelXy => { s with pixelXy := v }
  | .pixelSize => { s with pixelSize := sizeOf (v[0]) }
  | .pixelRgba => { s with pixelRgba := v }
  | .csum => s
  | .flen => s
  | .octets .fbuf _ => s
  | .octets arr j => setArray s arr (writeOctets (getArray s arr) j.val v)

/-- `MemRead(off, 4)` at a word offset of the window (20_memory.md R53, R54, R56): a reserved offset
reads 0. -/
def readWord (s : State) (off : Nat) : Word :=
  match regAt off with
  | none => 0
  | some r => readReg s r

/-- The acceptance of a command (30_encoding.md R72): `PENDING_OP <- op; STATUS.BUSY <- 1`. The
model takes the command's free latency here (log 3). -/
def acceptCommand (s : State) (op : BitVec 4) : State :=
  { s with
    pendingOp := op
    busy := true
    delay := Config.latency s.accepted
    accepted := s.accepted + 1 }

/-- `IssueCommand(v)` (30_encoding.md R72, the checks and their order of 60_exceptions.md R164):
DONE is cleared whatever comes of it. -/
def issueCommand (s : State) (v : Word) : State :=
  if s.busy then reject (clearDone s) .cmdBusy
  else
    match decode v with
    | .error _ => reject (clearDone s) .reservedOp
    | .ok .csum =>
      if Config.pPbufBytes < s.plen.toNat then reject (clearDone s) .plenRange
      else acceptCommand (clearDone s) (opField v)
    | .ok .encode => acceptCommand (clearDone s) (opField v)
    | .ok .build => acceptCommand (clearDone s) (opField v)
    | .ok .encodeBuild => acceptCommand (clearDone s) (opField v)

/-- `MemWrite(off, 4, v)` at a word offset of the window: the dispatch of 20_memory.md R57 after its
bus-error check. -/
def writeWord (s : State) (off : Nat) (v : Word) : State :=
  match regAt off with
  | none => s
  | some .status => writeStatus s v
  | some .cmd => issueCommand s v
  | some r =>
    if readOnly r then s
    else if s.busy then reject s .writeBusy
    else writeReg s r v

/-- What the block answers a read: the register word, 0 on a bus error (20_memory.md R51), and nothing
at or above 0x400, which it does not decode, whatever the width: what the platform answers there is not
this block's (R51; 93_implementation_defined.md I12; the order of the two looks is log 7's, DEDUCED). -/
def busRead (s : State) (width off : Nat) : Option Word :=
  if (Access.read width off).inWindow then
    some (if (Access.read width off).aligned32 then readWord s off else 0)
  else none

/-- The instruction the engine performs at its next step, read from PENDING_OP (10_state.md R38). -/
def pendingInstr (s : State) : Except DecodeError Instr := decodeOp s.pendingOp

/-- The block's reset taken at any moment (70_reset_and_hazards.md R180, R181): every state element
at its reset value, a pending command abandoned. What is outside the block stays: the events still
to come, the reads the host already has, and the count of commands (logs 2, 13). -/
def takeReset (s : State) : State :=
  { State.reset with script := s.script, reads := s.reads, accepted := s.accepted }

end Sys2Proof.Machine
end

