-- ==== Sys2Proof/Machine/Script.lean ====
section
/-! DEFINITION. The host: one event of its script performed on the block, and the pseudo-operations
of 30_encoding.md R76 and R77. -/

namespace Sys2Proof.Machine

/-- A host access takes one of the accesses that fall before the pending engine step
(70_reset_and_hazards.md R188; log 3). -/
def countAccess (s : State) : State := { s with delay := s.delay - 1 }

/-- The host's and platform's events still to come (log 2). -/
def setScript (s : State) (es : List HostEvent) : State := { s with script := es }

/-- A read the block performs: the value goes to the host, no block state changes (20_memory.md R58;
log 2). -/
def hostRead (s : State) (off : Nat) : State :=
  { countAccess s with reads := (off, readWord s off) :: s.reads }

/-- A write the block performs (20_memory.md R57). -/
def hostWrite (s : State) (off : Nat) (v : Word) : State := writeWord (countAccess s) off v

/-- One host access: refused outside the window, which the block does not decode (20_memory.md R51;
log 7); a fault on a bus error (60_exceptions.md R166; log 12); else performed whole. -/
def performAccess (s : State) (a : Access) : Host.Outcome State Fault Refusal :=
  if a.inWindow then
    if a.aligned32 then
      match a with
      | .read _ off => .next (hostRead s off)
      | .write _ off v => .next (hostWrite s off v)
    else .fault (.busError a)
  else .refused (.outsideWindow a)

/-- `wait` ends when bit 1 (DONE) or bit 2 (ERR) of the STATUS it reads is 1 (30_encoding.md R77). -/
def waitEnds (v : Word) : Bool := v[1] || v[2]

/-- `waitdone` ends when bit 1 (DONE) of the STATUS it reads is 1 (30_encoding.md R77). -/
def waitdoneEnds (v : Word) : Bool := v[1]

/-- One event, with the events after it: an access, one poll of `wait` or `waitdone` (which stays
until its condition holds; log 15), or the platform's reset. -/
def hostStep (s : State) (e : HostEvent) (rest : List HostEvent) :
    Host.Outcome State Fault Refusal :=
  match e with
  | .access a => performAccess (setScript s rest) a
  | .wait =>
    if waitEnds (statusWord s) then .next (hostRead (setScript s rest) (regOffset .status))
    else .next (hostRead s (regOffset .status))
  | .waitdone =>
    if waitdoneEnds (statusWord s) then
      .next (hostRead (setScript s rest) (regOffset .status))
    else .next (hostRead s (regOffset .status))
  | .reset => .next (takeReset (setScript s rest))

/-- Whose step is next. -/
inductive Turn where
  | engine
  | host (e : HostEvent) (rest : List HostEvent)
  | idle
deriving DecidableEq, Repr

/-- Whose step is next: the engine's, if a command is pending and no host access is owed before it
(or none will come); else the host's; with nothing pending and nothing to come the block is idle
(20_memory.md R61, 30_encoding.md R72, 70_reset_and_hazards.md R188, R189; log 3). -/
def turn (s : State) : Turn :=
  match s.script with
  | [] => if s.busy then .engine else .idle
  | e :: rest => if s.busy && s.delay == 0 then .engine else .host e rest

/-! ### Pseudo-operations (30_encoding.md R77) -/

/-- `wr NAME, V` (R76). -/
def wr (r : Reg) (v : Word) : HostEvent := .access (.write 32 (regOffset r) v)

/-- `rd NAME` (R76). -/
def rd (r : Reg) : HostEvent := .access (.read 32 (regOffset r))

/-- `encode`, `csum`, `build`, `encode_build`: a write of the command word to CMD (R77). -/
def command (i : Instr) : HostEvent := wr .cmd (encode i)

/-- `clear`: `wr STATUS, 0xE` (R77). -/
def clear : HostEvent := wr .status 0xE

/-- Octet `k` of a list of octets, "missing octets 0" (R77). -/
def listOctet (os : List Byte) (k : Nat) : Byte := os.getD k 0

/-- How many words `n` octets take: `ceil(n/4)` (R77). -/
def wordCount (n : Nat) : Nat := (n + 3) / 4

/-- `wbytes NAME, o0 o1 ... o(n-1)` (R77): `ceil(n/4)` word writes from the array's base. Where that is
more words than the array has, `NAMEj` names no register word and the spec is silent: this list of
events then goes on at `base + 4j`, and no script line stands for it, since `parseLine` refuses one
(DESIGN CHOICE, log 19). -/
def wbytes (arr : OctetArray) (os : List Byte) : List HostEvent :=
  (List.range (wordCount os.length)).map fun j =>
    .access (.write 32 (arrayBase arr + 4 * j)
      (wordOf (listOctet os (4 * j)) (listOctet os (4 * j + 1)) (listOctet os (4 * j + 2))
        (listOctet os (4 * j + 3))))

/-- `rbytes NAME, n` (R77): `ceil(n/4)` word reads from the array's base. Where that is more words than
the array has, as for `wbytes` (DESIGN CHOICE, log 19). -/
def rbytes (arr : OctetArray) (n : Nat) : List HostEvent :=
  (List.range (wordCount n)).map fun j => .access (.read 32 (arrayBase arr + 4 * j))

/-- The four octets of a word, the one in bits 31:24 first (20_memory.md R54). -/
def wordOctets (v : Word) : List Byte := [byteOf v 0, byteOf v 1, byteOf v 2, byteOf v 3]

/-- The first `n` octets of words read in order, "results unpacked by 20_memory.md rule R54" (R77). -/
def unpackWords (ws : List Word) (n : Nat) : List Byte := (ws.flatMap wordOctets).take n

/-- The result of an `rbytes NAME, n` that has just ended (R77): the `n` octets of the `ceil(n/4)` words
it read, the newest of the host's reads. -/
def rbytesResult (reads : List (Nat × Word)) (n : Nat) : List Byte :=
  unpackWords (((reads.take (wordCount n)).reverse).map Prod.snd) n

/-- The prefix software programs for a profile: `P_PREFIX_A` in octets 0 to 5 and zeros, or the OPEN
`P_PREFIX_B` (00_scope.md R7, 70_reset_and_hazards.md R182; log 10). -/
def deploymentPrefix : Profile → Octets 8
  | .a => Vector.ofFn (fun k : Fin 8 => oct Config.pPrefixA k.val)
  | .b => Config.pPrefixB

/-- The configuration of 70_reset_and_hazards.md R182, in the rule's order: CTRL, PREFIX, SRC_IP, the
MACs when there is a link header, and the clearing of STATUS. -/
def bootScript (profile : Profile) (pre : Octets 8) (src : Octets 16)
    (link : Option (Octets 6 × Octets 6)) : List HostEvent :=
  [wr .ctrl (bit (profileBit profile) ||| (bit link.isSome <<< 1))] ++
    wbytes .prefixes pre.toList ++ wbytes .srcIp src.toList ++
    (match link with
     | none => []
     | some (smac, dmac) => wbytes .srcMac smac.toList ++ wbytes .dstMac dmac.toList) ++
    [clear]

end Sys2Proof.Machine
end

