-- ==== Sys2Proof/Machine/Step.lean ====
section
/-! DEFINITION. One step of the machine: the engine's, the host's, or none. -/

namespace Sys2Proof.Machine

/-- One atomic step of the interleaving of 20_memory.md R61: the engine performs the pending command
whole, or one event reaches the block from outside; an idle block keeps every state element
(60_exceptions.md R172). -/
def step (s : State) : Host.Outcome State Fault Refusal :=
  match turn s with
  | .engine =>
    match pendingInstr s with
    | .ok i => exec i s
    | .error _ => .refused (.reservedPendingOp s.pendingOp)
  | .host e rest => hostStep s e rest
  | .idle => .next s

/-- The state with the instruction of the table's word where the engine takes its next one: pending,
with no host access owed before it. It stands for an accepted CMD write of that word (log 1). -/
def State.withFetchWord (s : State) (nbits w : Nat) : State :=
  { s with busy := true, delay := 0, pendingOp := opField (BitVec.ofNat 32 (w % 2 ^ nbits)) }

end Sys2Proof.Machine
end

