-- ==== Sys2Proof/Machine/ScriptText.lean ====
section
/-! DEFINITION. The text of a host script (30_encoding.md R76, R77): one line at a time, to the
events it stands for. -/

namespace Sys2Proof.Machine

/-- The name of an octet array (00_scope.md R9). -/
def arrayText : OctetArray → List Char
  | .prefixes => ['P', 'R', 'E', 'F', 'I', 'X']
  | .srcIp => ['S', 'R', 'C', '_', 'I', 'P']
  | .dstIp => ['D', 'S', 'T', '_', 'I', 'P']
  | .srcMac => ['S', 'R', 'C', '_', 'M', 'A', 'C']
  | .dstMac => ['D', 'S', 'T', '_', 'M', 'A', 'C']
  | .pbuf => ['P', 'B', 'U', 'F']
  | .fbuf => ['F', 'B', 'U', 'F']

/-- A word number below 16 in decimal: the largest is that of PBUF15 and FBUF15 (20_memory.md R52). -/
def indexText (j : Nat) : List Char :=
  if j < 10 then [hexDigit (BitVec.ofNat 4 j)] else ['1', hexDigit (BitVec.ofNat 4 (j - 10))]

/-- The register word name of 20_memory.md R52; `NAMEj` is word `j` of an octet array (R76). -/
def regText : Reg → List Char
  | .ctrl => ['C', 'T', 'R', 'L']
  | .status => ['S', 'T', 'A', 'T', 'U', 'S']
  | .cmd => ['C', 'M', 'D']
  | .plen => ['P', 'L', 'E', 'N']
  | .pixelXy => ['P', 'I', 'X', 'E', 'L', '_', 'X', 'Y']
  | .pixelSize => ['P', 'I', 'X', 'E', 'L', '_', 'S', 'I', 'Z', 'E']
  | .pixelRgba => ['P', 'I', 'X', 'E', 'L', '_', 'R', 'G', 'B', 'A']
  | .csum => ['C', 'S', 'U', 'M']
  | .flen => ['F', 'L', 'E', 'N']
  | .octets arr j => arrayText arr ++ indexText j.val

/-- The octet arrays. -/
def allArrays : List OctetArray := [.prefixes, .srcIp, .dstIp, .srcMac, .dstMac, .pbuf, .fbuf]

/-- The words of an array, as registers. -/
def arrayRegs (arr : OctetArray) : List Reg := (List.finRange arr.words).map (Reg.octets arr)

/-- Every register word of the map (20_memory.md R52). -/
def allRegs : List Reg :=
  [.ctrl, .status, .cmd, .plen, .pixelXy, .pixelSize, .pixelRgba, .csum, .flen] ++
    allArrays.flatMap arrayRegs

/-- The register word of a name. -/
def regNamed (t : List Char) : Option Reg := allRegs.find? (fun r => decide (regText r = t))

/-- The octet array of a name. -/
def arrayNamed (t : List Char) : Option OctetArray :=
  allArrays.find? (fun a => decide (arrayText a = t))

/-- The pieces of a line: spaces and commas separate them; `piece` is the one being read, reversed. -/
def piecesFrom : List Char → List Char → List (List Char)
  | [], [] => []
  | [], piece => [piece.reverse]
  | c :: cs, piece =>
    if c = ' ' ∨ c = ',' then
      if piece = [] then piecesFrom cs [] else piece.reverse :: piecesFrom cs []
    else piecesFrom cs (c :: piece)

/-- The pieces of a line without its comment ("`;` starts a comment", R76). -/
def pieces (line : List Char) : List (List Char) := piecesFrom (line.takeWhile (· ≠ ';')) []

/-- A number in hexadecimal, with its `0x` (R76). -/
def hexNumber : List Char → Option Nat
  | '0' :: 'x' :: d :: ds => hexRun (d :: ds) 0
  | _ => none

/-- A 32-bit value (R76: "Values are 32-bit, written in hexadecimal"). -/
def valueText (t : List Char) : Option Word :=
  match hexNumber t with
  | some n => if n < 2 ^ 32 then some (BitVec.ofNat 32 n) else none
  | none => none

/-- `OFF` is an offset or a register word name (R76). -/
def offsetText (t : List Char) : Option Nat :=
  match regNamed t with
  | some r => some (regOffset r)
  | none => hexNumber t

/-- The octets of `wbytes`: two hexadecimal digits each (95_test_vectors.md P2). -/
def octetsText : List (List Char) → Option (List Byte)
  | [] => some []
  | [a, b] :: ts =>
    match hexRun [a, b] 0, octetsText ts with
    | some n, some os => some (BitVec.ofNat 8 n :: os)
    | _, _ => none
  | _ => none

/-- The count of `rbytes`: decimal digits (95_test_vectors.md P1). -/
def countText : List Char → Nat → Option Nat
  | [], acc => some acc
  | c :: cs, acc =>
    match hexValue c with
    | some d => if d.toNat < 10 then countText cs (acc * 10 + d.toNat) else none
    | none => none

/-- The events of one line of a host script (R76, R77), none if the line is not of that syntax. An
empty line, or a comment alone, is no event. A `wbytes` or `rbytes` of more words than the array has is
not of the syntax: its `NAMEj` names no register word (DESIGN CHOICE, log 19). -/
def parseLine (line : List Char) : Option (List HostEvent) :=
  match pieces line with
  | [] => some []
  | [op] =>
    if op = mnemonicText .encode then some [command .encode]
    else if op = mnemonicText .csum then some [command .csum]
    else if op = mnemonicText .build then some [command .build]
    else if op = mnemonicText .encodeBuild then some [command .encodeBuild]
    else if op = ['w', 'a', 'i', 't'] then some [.wait]
    else if op = ['w', 'a', 'i', 't', 'd', 'o', 'n', 'e'] then some [.waitdone]
    else if op = ['c', 'l', 'e', 'a', 'r'] then some [clear]
    else none
  | op :: x :: ys =>
    if op = ['w', 'b', 'y', 't', 'e', 's'] then
      match arrayNamed x, octetsText ys with
      | some arr, some os => if wordCount os.length ≤ arr.words then some (wbytes arr os) else none
      | _, _ => none
    else if op = ['r', 'd'] ∧ ys = [] then
      (offsetText x).map fun off => [.access (.read 32 off)]
    else
      match ys with
      | [y] =>
        if op = ['w', 'r'] then
          match offsetText x, valueText y with
          | some off, some v => some [.access (.write 32 off v)]
          | _, _ => none
        else if op = ['r', 'b', 'y', 't', 'e', 's'] then
          match arrayNamed x, countText y 0 with
          | some arr, some n => if wordCount n ≤ arr.words then some (rbytes arr n) else none
          | _, _ => none
        else none
      | _ => none

/-- The events of a whole script, a line at a time in order (R76). -/
def parseScript : List (List Char) → Option (List HostEvent)
  | [] => some []
  | line :: lines =>
    match parseLine line, parseScript lines with
    | some es, some rest => some (es ++ rest)
    | _, _ => none

end Sys2Proof.Machine
end

