-- ==== Sys2Proof/Safety.lean ====
section
/-! DEFINITION. What counts as a legal state, an ended run and a kept software duty, in the terms
claims use. -/

namespace Sys2Proof.Machine

/-- FBUF and FLEN hold exactly one built frame and zeros, or nothing was built since reset
(10_state.md R30, 42_framer.md R146). -/
def holdsOneFrame (s : State) : Prop :=
  (s.flen = 0 ∧ s.fbuf = Vector.replicate 64 0) ∨
    ∃ (link : Bool) (smac dmac : Octets 6) (src dst : Octets 16),
      s.fbuf = padOctets (frameOctets link smac dmac src dst) ∧
        s.flen = if link then 62 else 48

/-- ERRCODE is 0 exactly when ERR is 0, and codes 5 to 15 are never recorded (10_state.md R23,
60_exceptions.md R161). -/
def errcodeLegal (s : State) : Prop :=
  (s.err = false → s.errcode = 0) ∧ (s.err = true → 1 ≤ s.errcode.toNat ∧ s.errcode.toNat ≤ 4)

/-- While BUSY = 1, PENDING_OP is the opcode of a command that the checks at issue accept, and DONE
is 0 (10_state.md R38, 30_encoding.md R72). -/
def pendingLegal (s : State) : Prop :=
  s.busy = true →
    s.done = false ∧ ∃ i, pendingInstr s = .ok i ∧ (i = .csum → s.plen.toNat ≤ Config.pPbufBytes)

/-- What every step keeps: the rules of STATUS, of PENDING_OP, of FBUF and FLEN, and of CSUM
(41_checksum.md R124: "C is never 0xFFFF"). -/
structure Legal (s : State) : Prop where
  errcode : errcodeLegal s
  pending : pendingLegal s
  frame : holdsOneFrame s
  csum : s.csum ≠ 0xFFFF

/-- The host has performed its last line: no event to come is the host's. What may still come is the
platform's reset, which is no line of the host's script (70_reset_and_hazards.md R180, R189). -/
def hostDone (s : State) : Prop := ∀ e ∈ s.script, e = .reset

/-- The run has ended: the host has performed its last line and BUSY = 0; while BUSY = 1 the engine step
is still owed (70_reset_and_hazards.md R189). A bus error is no next state, so a faulted run never
ends. -/
def runEnded (s : State) : Prop := hostDone s ∧ s.busy = false

/-- The events a claim about completion may assume: well-formed accesses and no reset. -/
def quietScript (es : List HostEvent) : Prop := ∀ e ∈ es, e.wf = true ∧ e ≠ .reset

/-- The software duty of 70_reset_and_hazards.md R186: under Profile A, x ≤ 0x0FFF. -/
def inputInRange (s : State) : Prop := s.profile = .a → (opX s).toNat ≤ 0x0FFF

/-- The software duty of 70_reset_and_hazards.md R185 between two states of one run: profile and
prefix are the same. -/
def sameConfiguration (s t : State) : Prop := s.profile = t.profile ∧ s.prefixes = t.prefixes

/-- Nothing the block holds differs: the two states agree but for the model's own fields. -/
def sameBlock (s t : State) : Prop :=
  t = { s with script := t.script, reads := t.reads, delay := t.delay, accepted := t.accepted }

end Sys2Proof.Machine
end

