-- ==== Sys2Proof/Certificates/Slice0/Obligations.lean ====
section
/-! DEFINITION. The statements for the provers. -/

open Sys2Proof Sys2Proof.Machine

/-! ### Decoding and encoding -/

/-- 30_encoding.md R71, R75: a few command words written out from the table decode as the table
says. A sanity statement. -/
def Obligations.DecodeOfWordsWrittenOut : Prop :=
  decode 0x00000001 = .ok .encode ∧ decode 0x00000002 = .ok .csum ∧
  decode 0x00000003 = .ok .build ∧ decode 0x00000004 = .ok .encodeBuild ∧
  decode 0xFFFFFFF1 = .ok .encode ∧ decode 0xABCDEF04 = .ok .encodeBuild ∧
  decode 0x00000000 = .error (.reservedOpcode 0x0) ∧
  decode 0x00000005 = .error (.reservedOpcode 0x5) ∧
  decode 0x1234567F = .error (.reservedOpcode 0xF)

/-- 30_encoding.md R70, R71, R75, R78: a word decodes to a command exactly when its low four bits are
that command's opcode, whatever bits 31:4 hold; `encode` gives such a word; printing then parsing a
command word gives the command's word, and a reserved word itself. -/
def Obligations.DecodeEncodePrintParseAgree : Prop :=
  (∀ (i : Instr) (w : BitVec 28), decode (w ++ opcode i) = .ok i) ∧
  (∀ (i : Instr) (v : Word), decode v = .ok i → v.extractLsb' 0 4 = opcode i) ∧
  (∀ i : Instr, i.wf = true → decode (encode i) = .ok i ∧ encode i = (0 : BitVec 28) ++ opcode i) ∧
  (∀ (i : Instr) (v : Word), decode v = .ok i → parseCommand (printCommand v) = some (encode i)) ∧
  (∀ (e : DecodeError) (v : Word), decode v = .error e →
    e = .reservedOpcode (v.extractLsb' 0 4) ∧ parseCommand (printCommand v) = some v)

/-- 30_encoding.md R75: a CMD write of a reserved opcode while BUSY = 0 is rejected with code 1 and
has no other effect than the clearing of DONE; "Bits 31:4 of the command word are ignored". -/
def Obligations.ReservedOpcodesAreRejected : Prop :=
  (∀ (s : State) (v : Word), s.busy = false →
    v.extractLsb' 0 4 ∉ [0x1#4, 0x2#4, 0x3#4, 0x4#4] →
    issueCommand s v =
      { s with
        done := false
        err := true
        errcode := if s.err then s.errcode else 1 }) ∧
  ∀ (s : State) (v w : Word), issueCommand s (v ||| (w <<< 4)) = issueCommand s v

/-! ### The engine's step -/

/-- 30_encoding.md R72: the step of a state with a pending command and no host access owed before
the engine (the model's own `delay`, log 3) is `exec` of the command PENDING_OP names; and a word
placed by `withFetchWord` is the very next instruction performed. -/
def Obligations.StepRunsThePendingCommand : Prop :=
  (∀ (s : State) (i : Instr), s.busy = true → (s.delay = 0 ∨ s.script = []) →
    pendingInstr s = .ok i → step s = exec i s) ∧
  ∀ (s : State) (i : Instr) (nbits w : Nat), decodeTableWord nbits w = some i →
    step (s.withFetchWord nbits w) = exec i (s.withFetchWord nbits w)

/-- 60_exceptions.md R160: "no engine step raises any error". Every command completes from every
state, with BUSY = 0 and DONE = 1, and leaves ERR and ERRCODE alone, and PENDING_OP (log 18). -/
def Obligations.EveryCommandCompletes : Prop :=
  ∀ (i : Instr) (s : State), ∃ t, exec i s = .next t ∧ t.busy = false ∧ t.done = true ∧
    t.err = s.err ∧ t.errcode = s.errcode ∧ t.pendingOp = s.pendingOp

/-- 40_address_encoder.md R102: ENCODE under Profile A. The prefix takes three segments, segment 3 is
x with the size code at bits 13:12, each colour channel fills a segment; nothing else changes but
XRANGE, BUSY and DONE. -/
def Obligations.EncodeUnderProfileA : Prop :=
  ∀ s : State, s.profile = .a → ∃ t, exec .encode s = .next t ∧
    t = { s with dstIp := t.dstIp, xrange := t.xrange, busy := false, done := true } ∧
    (∀ k, k < 6 → oct t.dstIp k = oct s.prefixes k) ∧
    segment t.dstIp 3 =
      s.pixelXy.extractLsb' 0 16 ||| (if s.pixelSize = .area2x2 then 0x2000 else 0x1000) ∧
    segment t.dstIp 4 = s.pixelXy.extractLsb' 16 16 ∧
    (segment t.dstIp 5).toNat = (s.pixelRgba.extractLsb' 24 8).toNat ∧
    (segment t.dstIp 6).toNat = (s.pixelRgba.extractLsb' 16 8).toNat ∧
    (segment t.dstIp 7).toNat = (s.pixelRgba.extractLsb' 8 8).toNat ∧
    t.xrange = (s.xrange || decide (0x0FFF < (s.pixelXy.extractLsb' 0 16).toNat))

/-- 40_address_encoder.md R103: ENCODE under Profile B. The prefix takes four segments, then x, y,
blue and green, red and alpha; nothing else changes but BUSY and DONE, XRANGE included. -/
def Obligations.EncodeUnderProfileB : Prop :=
  ∀ s : State, s.profile = .b → ∃ t, exec .encode s = .next t ∧
    t = { s with dstIp := t.dstIp, busy := false, done := true } ∧
    (∀ k, k < 8 → oct t.dstIp k = oct s.prefixes k) ∧
    segment t.dstIp 4 = s.pixelXy.extractLsb' 0 16 ∧
    segment t.dstIp 5 = s.pixelXy.extractLsb' 16 16 ∧
    (segment t.dstIp 6).toNat =
      256 * (s.pixelRgba.extractLsb' 8 8).toNat + (s.pixelRgba.extractLsb' 16 8).toNat ∧
    (segment t.dstIp 7).toNat =
      256 * (s.pixelRgba.extractLsb' 24 8).toNat + (s.pixelRgba.extractLsb' 0 8).toNat

/-- 60_exceptions.md R167: ENCODE and ENCODE_BUILD set XRANGE exactly under Profile A with
x > 0x0FFF, never clear it, still write the address and complete, and do not touch ERR or ERRCODE;
XRANGE stays 1 over a step unless the step is a STATUS write with bit 3 set, or a reset. -/
def Obligations.XrangeIsAStickyWarning : Prop :=
  (∀ (s : State) (i : Instr), (i = .encode ∨ i = .encodeBuild) → ∃ t, exec i s = .next t ∧
    t.xrange =
      (s.xrange || decide (s.profile = .a ∧ 0x0FFF < (s.pixelXy.extractLsb' 0 16).toNat)) ∧
    t.dstIp = encodeAddress s.profile s.prefixes (opX s) (opY s) (opR s) (opG s) (opB s) (opA s)
      (sizeCode s.pixelSize) ∧
    t.err = s.err ∧ t.errcode = s.errcode ∧ t.busy = false ∧ t.done = true) ∧
  ∀ s t : State, step s = .next t → s.xrange = true → t.xrange = false →
    ∃ rest, s.script = .reset :: rest ∨
      ∃ v : Word, s.script = .access (.write 32 0x004 v) :: rest ∧ v[3] = true

/-- 40_address_encoder.md R109 at the machine (an inference of the spec): after ENCODE under Profile
A from XRANGE = 0, the reference Decode (R108) recovers position, colour and size exactly when the
command did not set XRANGE. -/
def Obligations.EncodeWarnsExactlyWhenDecodeFails : Prop :=
  ∀ s : State, s.profile = .a → s.xrange = false → ∃ t, exec .encode s = .next t ∧
    (t.xrange = false ↔
      decodeAddress .a s.prefixes t.dstIp =
        some { x := opX s, y := opY s, r := opR s, g := opG s, b := opB s, a := none,
               size := some s.pixelSize })

/-- 40_address_encoder.md R109 (an inference of the spec): the round trip under Profile B loses
nothing, for every operand, and Decode accepts no address with another prefix. -/
def Obligations.ProfileBRoundTrip : Prop :=
  ∀ (pre pre' : Octets 8) (x y : Half) (r g b a : Byte) (code : BitVec 2),
    decodeAddress .b pre (encodeAddress .b pre x y r g b a code) =
      some { x := x, y := y, r := r, g := g, b := b, a := some a, size := none } ∧
    (pre ≠ pre' → decodeAddress .b pre' (encodeAddress .b pre x y r g b a code) = none)

/-- 30_encoding.md R73, what a command reads: from two states that agree on a command's operands,
its results agree; "no command reads or writes anything else". XRANGE, which is set only, also
depends on its old value; ENCODE_BUILD does not read the old DST_IP (42_framer.md R148). -/
def Obligations.CommandsReadOnlyTheirOperands : Prop :=
  (∀ s s' : State, s.profile = s'.profile →
    (∀ k, k < (if s.profile = .a then 6 else 8) → oct s.prefixes k = oct s'.prefixes k) →
    s.pixelXy = s'.pixelXy → (s.profile = .a → s.pixelSize = s'.pixelSize) →
    (∀ k, (if s.profile = .a then 8 else 0) ≤ k → s.pixelRgba.getLsbD k = s'.pixelRgba.getLsbD k) →
    (∃ t t', exec .encode s = .next t ∧ exec .encode s' = .next t' ∧ t.dstIp = t'.dstIp ∧
      (s.xrange = s'.xrange → t.xrange = t'.xrange)) ∧
    (s.linkEn = s'.linkEn → (s.linkEn = true → s.srcMac = s'.srcMac ∧ s.dstMac = s'.dstMac) →
      s.srcIp = s'.srcIp →
      ∃ t t', exec .encodeBuild s = .next t ∧ exec .encodeBuild s' = .next t' ∧
        t.dstIp = t'.dstIp ∧ t.fbuf = t'.fbuf ∧ t.flen = t'.flen ∧ t.csum = t'.csum ∧
        (s.xrange = s'.xrange → t.xrange = t'.xrange))) ∧
  (∀ s s' : State, s.srcIp = s'.srcIp → s.dstIp = s'.dstIp → s.plen = s'.plen →
    s.plen.toNat ≤ 64 → (∀ k, k < s.plen.toNat → oct s.pbuf k = oct s'.pbuf k) →
    ∃ t t', exec .csum s = .next t ∧ exec .csum s' = .next t' ∧ t.csum = t'.csum) ∧
  (∀ s s' : State, s.linkEn = s'.linkEn →
    (s.linkEn = true → s.srcMac = s'.srcMac ∧ s.dstMac = s'.dstMac) →
    s.srcIp = s'.srcIp → s.dstIp = s'.dstIp →
    ∃ t t', exec .build s = .next t ∧ exec .build s' = .next t' ∧
      t.fbuf = t'.fbuf ∧ t.flen = t'.flen ∧ t.csum = t'.csum)

/-- 30_encoding.md R73, what a command writes: every field outside the table's "writes" column, and
outside BUSY and DONE, is unchanged. The frame of all four commands. -/
def Obligations.CommandsWriteOnlyTheirResults : Prop :=
  ∀ s : State,
    (∃ t, exec .encode s = .next t ∧
      t = { s with dstIp := t.dstIp, busy := false, done := true,
                   xrange := if s.profile = .a then t.xrange else s.xrange }) ∧
    (∃ t, exec .csum s = .next t ∧ t = { s with csum := t.csum, busy := false, done := true }) ∧
    (∃ t, exec .build s = .next t ∧
      t = { s with fbuf := t.fbuf, flen := t.flen, csum := t.csum, busy := false, done := true }) ∧
    (∃ t, exec .encodeBuild s = .next t ∧
      t = { s with dstIp := t.dstIp, fbuf := t.fbuf, flen := t.flen, csum := t.csum,
                   busy := false, done := true,
                   xrange := if s.profile = .a then t.xrange else s.xrange })

/-! ### The checksum -/

/-- 41_checksum.md R120: the pseudo-header is source address, destination address, 16-bit big-endian
length, three zero octets and 58, and for the lengths the rule defines, 0 to 65535, the summed stream
is it followed by the payload. -/
def Obligations.PseudoHeaderLayout : Prop :=
  ∀ (src dst : Octets 16) (len : Half) (p : List Byte),
    (pseudoHeader src dst len).length = 38 ∧
    (pseudoHeader src dst len).take 16 = src.toList ∧
    ((pseudoHeader src dst len).drop 16).take 16 = dst.toList ∧
    (pseudoHeader src dst len).drop 32 =
      [len.extractLsb' 8 8, len.extractLsb' 0 8, 0x00, 0x00, 0x00, 0x3A] ∧
    (p.length ≤ 65535 →
      checksum src dst p = onesComplement (pseudoHeader src dst (BitVec.ofNat 16 p.length) ++ p))

/-- 41_checksum.md R122: the word sum by octet positions: for each pair the first octet is the low
half and the second the high half, and an odd last octet is paired with a zero high octet; after the
38 octets of a pseudo-header the pairing of the payload starts at payload octet 0 (that last clause is
an inference of the spec, from R120 and R122). -/
def Obligations.WordSumPairsFirstOctetLow : Prop :=
  (∀ stream : List Byte,
    wordSum stream =
      ((List.range (stream.length / 2)).map fun i =>
        (stream.getD (2 * i) 0).toNat ||| ((stream.getD (2 * i + 1) 0).toNat <<< 8)).sum +
      (if stream.length % 2 = 1 then (stream.getD (stream.length - 1) 0).toNat else 0)) ∧
  ∀ (src dst : Octets 16) (len : Half) (p : List Byte),
    (pseudoHeader src dst len).length = 38 ∧
    wordSum (pseudoHeader src dst len ++ p) = wordSum (pseudoHeader src dst len) + wordSum p

/-- 41_checksum.md R123: the fold is the loop `while S > 0xFFFF: S := (S & 0xFFFF) + (S >> 16)`, it
ends at 16 bits, and the result is the bitwise NOT of the folded sum. -/
def Obligations.FoldRepeatsUntilNoCarry : Prop :=
  (∀ sum : Nat, foldSum sum ≤ 0xFFFF) ∧
  (∀ sum : Nat, sum ≤ 0xFFFF → foldSum sum = sum) ∧
  (∀ sum : Nat, 0xFFFF < sum → foldSum sum = foldSum (sum % 0x10000 + sum / 0x10000)) ∧
  ∀ stream : List Byte,
    (onesComplement stream).toNat = 0xFFFF - foldSum (wordSum stream)

/-- 41_checksum.md R124 (an inference of the spec): the folded sum is the word sum reduced modulo
0xFFFF into 1 .. 0xFFFF, and a checksum is never 0xFFFF. -/
def Obligations.FoldIsReductionModulo65535 : Prop :=
  (∀ sum : Nat, foldSum sum = if sum = 0 then 0 else 1 + (sum - 1) % 0xFFFF) ∧
  ∀ (src dst : Octets 16) (p : List Byte), checksum src dst p ≠ 0xFFFF

/-- 41_checksum.md R125 (an inference of the spec): the word sum of any stream the block or the
source can have fits 32 bits; for a payload of at most 64 octets it fits 22 bits and two fold steps
are enough. -/
def Obligations.AccumulatorOf32BitsSuffices : Prop :=
  ∀ (src dst : Octets 16) (p : List Byte),
    (p.length ≤ 65535 →
      wordSum (pseudoHeader src dst (BitVec.ofNat 16 p.length) ++ p) < 2 ^ 32) ∧
    (p.length ≤ 64 →
      wordSum (pseudoHeader src dst (BitVec.ofNat 16 p.length) ++ p) < 2 ^ 22 ∧
      foldSteps 2 (wordSum (pseudoHeader src dst (BitVec.ofNat 16 p.length) ++ p)) =
        foldSum (wordSum (pseudoHeader src dst (BitVec.ofNat 16 p.length) ++ p)))

/-- 41_checksum.md R126 with R120 to R124: the CSUM command, its result written out from the
registers alone: the word sum of the addresses, the length octets, 0x3A00 and the first PLEN octets
of PBUF, reduced modulo 0xFFFF and complemented. Everything else is unchanged but BUSY and DONE. -/
def Obligations.CsumOfTheRegisters : Prop :=
  ∀ s : State, s.plen.toNat ≤ 64 → ∃ t, exec .csum s = .next t ∧
    t = { s with csum := t.csum, busy := false, done := true } ∧
    ∀ total : Nat,
      total =
        ((List.range 8).map fun k =>
          (oct s.srcIp (2 * k)).toNat + 256 * (oct s.srcIp (2 * k + 1)).toNat).sum +
        ((List.range 8).map fun k =>
          (oct s.dstIp (2 * k)).toNat + 256 * (oct s.dstIp (2 * k + 1)).toNat).sum +
        256 * s.plen.toNat + 0x3A00 +
        ((List.range ((s.plen.toNat + 1) / 2)).map fun k =>
          (oct s.pbuf (2 * k)).toNat +
            256 * (if 2 * k + 1 < s.plen.toNat then (oct s.pbuf (2 * k + 1)).toNat else 0)).sum →
      t.csum.toNat = 0xFFFF - (1 + (total - 1) % 0xFFFF)

/-- 41_checksum.md R126: CSUM sums `PBUF[0..PLEN.LEN)` with SRC_IP and DST_IP, and stores the
checksum of exactly those; the issue of CSUM is rejected with code 2 while BUSY, else with code 3 if
PLEN.LEN > 64, else accepted. -/
def Obligations.CsumCommand : Prop :=
  (∀ s : State, s.plen.toNat ≤ 64 →
    exec .csum s =
      .next { s with
        csum := checksum s.srcIp s.dstIp (s.pbuf.toList.take s.plen.toNat)
        busy := false
        done := true }) ∧
  ∀ (s : State) (v : Word), v.extractLsb' 0 4 = 0x2 →
    issueCommand s v =
      if s.busy then reject { s with done := false } .cmdBusy
      else if 64 < s.plen.toNat then reject { s with done := false } .plenRange
      else acceptCommand { s with done := false } 0x2

/-- 41_checksum.md R127 (an inference of the spec): the checksum of a payload with a zero field at an
even offset, put into that field low byte first, makes the checksum zero. -/
def Obligations.ChecksumSelfConsistency : Prop :=
  ∀ (src dst : Octets 16) (before after : List Byte), before.length % 2 = 0 →
    checksum src dst
      (before ++ [(checksum src dst (before ++ [0, 0] ++ after)).extractLsb' 0 8,
                  (checksum src dst (before ++ [0, 0] ++ after)).extractLsb' 8 8] ++ after) = 0

/-- 41_checksum.md R128 (general knowledge of the spec's writer): stored low byte first, the checksum
puts on the wire the octets of the usual big-endian computation over the 40-octet pseudo-header
stored high byte first, for every payload of at most 65535 octets. -/
def Obligations.WireEquivalenceWithBigEndian : Prop :=
  ∀ (src dst : Octets 16) (p : List Byte), p.length ≤ 65535 →
    (checksum src dst p).extractLsb' 0 8 = (checksumBigEndian src dst p).extractLsb' 8 8 ∧
    (checksum src dst p).extractLsb' 8 8 = (checksumBigEndian src dst p).extractLsb' 0 8

/-! ### The framer -/

/-- 42_framer.md R140, R142 to R146: BUILD, octet by octet of FBUF, with `base` 14 or 0: link header,
IPv6 header, ICMPv6 message with the checksum low byte first, zeros to the end; FLEN, CSUM; nothing
else changes but BUSY and DONE. -/
def Obligations.BuildWritesTheFrame : Prop :=
  ∀ s : State, ∃ t, exec .build s = .next t ∧
    t = { s with fbuf := t.fbuf, flen := t.flen, csum := t.csum, busy := false, done := true } ∧
    t.flen.toNat = (if s.linkEn then 62 else 48) ∧
    (s.linkEn = true →
      octetRange t.fbuf 0 6 = s.dstMac.toList ∧ octetRange t.fbuf 6 12 = s.srcMac.toList ∧
      octetRange t.fbuf 12 14 = [0x86, 0xDD]) ∧
    octetRange t.fbuf (frameBase s.linkEn) (frameBase s.linkEn + 8) =
      [0x60, 0x08, 0x0A, 0xF4, 0x00, 0x08, 0x3A, 0x40] ∧
    octetRange t.fbuf (frameBase s.linkEn + 8) (frameBase s.linkEn + 24) = s.srcIp.toList ∧
    octetRange t.fbuf (frameBase s.linkEn + 24) (frameBase s.linkEn + 40) = s.dstIp.toList ∧
    octetRange t.fbuf (frameBase s.linkEn + 40) (frameBase s.linkEn + 48) =
      [0x80, 0x00, t.csum.extractLsb' 0 8, t.csum.extractLsb' 8 8, 0x00, 0x69, 0x00, 0x01] ∧
    (∀ k, frameBase s.linkEn + 48 ≤ k → oct t.fbuf k = 0) ∧
    t.csum = checksum s.srcIp s.dstIp [0x80, 0x00, 0x00, 0x00, 0x00, 0x69, 0x00, 0x01]

/-- 42_framer.md R148 (its equation is an inference of the spec): ENCODE_BUILD completes with the
state that ENCODE followed by BUILD leaves. -/
def Obligations.EncodeBuildIsEncodeThenBuild : Prop :=
  ∀ s : State, ∃ t u, exec .encode s = .next t ∧ exec .build t = .next u ∧
    exec .encodeBuild s = .next u

/-- 42_framer.md R148 with R143, R145: the frame that ENCODE_BUILD leaves carries the address it has
just encoded, in its IPv6 header and under its checksum, whatever DST_IP held before; the addresses
are written out from the operands. -/
def Obligations.EncodeBuildFramesTheNewAddress : Prop :=
  ∀ s : State, ∃ t, exec .encodeBuild s = .next t ∧
    t = { s with
          dstIp := t.dstIp, fbuf := t.fbuf, flen := t.flen, csum := t.csum,
          busy := false, done := true, xrange := t.xrange } ∧
    t.dstIp = encodeAddress s.profile s.prefixes (s.pixelXy.extractLsb' 0 16)
      (s.pixelXy.extractLsb' 16 16) (s.pixelRgba.extractLsb' 24 8) (s.pixelRgba.extractLsb' 16 8)
      (s.pixelRgba.extractLsb' 8 8) (s.pixelRgba.extractLsb' 0 8)
      (if s.pixelSize = .area2x2 then 2 else 1) ∧
    t.flen.toNat = (if s.linkEn then 62 else 48) ∧
    octetRange t.fbuf (frameBase s.linkEn + 8) (frameBase s.linkEn + 24) = s.srcIp.toList ∧
    octetRange t.fbuf (frameBase s.linkEn + 24) (frameBase s.linkEn + 40) = t.dstIp.toList ∧
    octetRange t.fbuf (frameBase s.linkEn + 40) (frameBase s.linkEn + 48) =
      [0x80, 0x00, t.csum.extractLsb' 0 8, t.csum.extractLsb' 8 8, 0x00, 0x69, 0x00, 0x01] ∧
    t.csum = checksum s.srcIp t.dstIp [0x80, 0x00, 0x00, 0x00, 0x00, 0x69, 0x00, 0x01]

/-- 42_framer.md R145 with 41_checksum.md R127 (an inference of the spec): after BUILD and after
ENCODE_BUILD, the checksum over the ICMPv6 octets that stand in FBUF, with the addresses that stand
in the frame's IPv6 header, is zero: a receiver's check succeeds. -/
def Obligations.BuiltFrameVerifies : Prop :=
  ∀ (s : State) (i : Instr), (i = .build ∨ i = .encodeBuild) → ∃ t, exec i s = .next t ∧
    ∀ src dst : Octets 16,
      src.toList = octetRange t.fbuf (frameBase s.linkEn + 8) (frameBase s.linkEn + 24) →
      dst.toList = octetRange t.fbuf (frameBase s.linkEn + 24) (frameBase s.linkEn + 40) →
      checksum src dst
        (octetRange t.fbuf (frameBase s.linkEn + 40) (frameBase s.linkEn + 48)) = 0

/-! ### Registers and the host window -/

/-- 20_memory.md R52: the register map. Each register word stands at its one offset of the rule's
table, the reserved word offsets of the window are exactly those the rule lists, the read-only
registers are CSUM, FLEN and FBUF, and CMD reads 0. -/
def Obligations.RegisterMap : Prop :=
  (∀ (off : Nat) (r : Reg), regAt off = some r ↔
    off = match r with
      | .ctrl => 0x000
      | .status => 0x004
      | .cmd => 0x008
      | .plen => 0x00C
      | .pixelXy => 0x010
      | .pixelSize => 0x014
      | .pixelRgba => 0x018
      | .csum => 0x01C
      | .flen => 0x020
      | .octets .prefixes j => 0x030 + 4 * j.val
      | .octets .srcIp j => 0x040 + 4 * j.val
      | .octets .dstIp j => 0x050 + 4 * j.val
      | .octets .srcMac j => 0x060 + 4 * j.val
      | .octets .dstMac j => 0x068 + 4 * j.val
      | .octets .pbuf j => 0x100 + 4 * j.val
      | .octets .fbuf j => 0x200 + 4 * j.val) ∧
  (∀ r : Reg, readOnly r = true ↔ r = .csum ∨ r = .flen ∨ ∃ j, r = .octets .fbuf j) ∧
  (∀ s : State, readWord s 0x008 = 0) ∧
  ∀ off : Nat, off % 4 = 0 → off < 0x400 →
    (regAt off = none ↔
      (0x024 ≤ off ∧ off ≤ 0x02C) ∨ (0x038 ≤ off ∧ off ≤ 0x03C) ∨ (0x070 ≤ off ∧ off ≤ 0x0FC) ∨
      (0x140 ≤ off ∧ off ≤ 0x1FC) ∨ (0x240 ≤ off ∧ off ≤ 0x3FC))

/-- 20_memory.md R53: a reserved word offset reads 0 and ignores a write; reserved bits of every
mapped register read 0; after a write to a writable register while BUSY = 0, the register reads the
written word with its reserved bits 0, and every other register word reads as before. -/
def Obligations.WrittenRegisterReadsBack : Prop :=
  (∀ (s : State) (off : Nat) (v : Word), regAt off = none →
    readWord s off = 0 ∧ writeWord s off v = s) ∧
  (∀ (s : State) (r : Reg),
    readReg s r &&& (match r with
      | .ctrl => 0xFFFFFFFC
      | .status => 0xFFFFFF00
      | .cmd => 0xFFFFFFFF
      | .plen => 0xFFFF0000
      | .pixelSize => 0xFFFFFFFE
      | .csum => 0xFFFF0000
      | .flen => 0xFFFF0000
      | .octets .srcMac 1 => 0x0000FFFF
      | .octets .dstMac 1 => 0x0000FFFF
      | _ => 0x00000000) = 0) ∧
  ∀ (s : State) (r : Reg) (v : Word), s.busy = false → readOnly r = false →
    r ≠ .status → r ≠ .cmd →
    readWord (writeWord s (regOffset r) v) (regOffset r) =
      (v &&& (match r with
        | .ctrl => 0x00000003
        | .plen => 0x0000FFFF
        | .pixelSize => 0x00000001
        | .octets .srcMac 1 => 0xFFFF0000
        | .octets .dstMac 1 => 0xFFFF0000
        | _ => 0xFFFFFFFF)) ∧
    ∀ r' : Reg, r' ≠ r → readReg (writeWord s (regOffset r) v) r' = readReg s r'

/-- 20_memory.md R54: word `j` of an octet array is the big-endian value of its four octets, 0x00
past the array's end; word `j` of an address is segments `2j` and `2j+1`. -/
def Obligations.ArrayWordsReadBigEndian : Prop :=
  (∀ (s : State) (arr : OctetArray) (j : Fin arr.words),
    (readReg s (.octets arr j)).toNat =
      2 ^ 24 * (oct (getArray s arr) (4 * j)).toNat +
      2 ^ 16 * (oct (getArray s arr) (4 * j + 1)).toNat +
      2 ^ 8 * (oct (getArray s arr) (4 * j + 2)).toNat +
      (oct (getArray s arr) (4 * j + 3)).toNat) ∧
  ∀ (s : State) (j : Fin 4),
    readReg s (.octets .dstIp j) =
      segment s.dstIp ⟨2 * j, by omega⟩ ++ segment s.dstIp ⟨2 * j + 1, by omega⟩

/-- 20_memory.md R55: a write to word `j` of a writable octet array while BUSY = 0 sets its four
octets together from bits 31:24 down to 7:0, skips every index past the end, and changes no other
octet and no other register. -/
def Obligations.ArrayWriteSetsFourOctets : Prop :=
  ∀ (s : State) (arr : OctetArray) (j : Fin arr.words) (v : Word), s.busy = false → arr ≠ .fbuf →
    ∃ F : Octets arr.length,
      writeWord s (arrayBase arr + 4 * j) v = setArray s arr F ∧
      ∀ (k : Nat) (h : k < arr.length),
        F[k] =
          if k = 4 * j.val then v.extractLsb' 24 8
          else if k = 4 * j.val + 1 then v.extractLsb' 16 8
          else if k = 4 * j.val + 2 then v.extractLsb' 8 8
          else if k = 4 * j.val + 3 then v.extractLsb' 0 8
          else (getArray s arr)[k]

/-- 60_exceptions.md R163: while BUSY = 1 a write to a writable register other than STATUS and CMD is
dropped with code 4 and a write to CMD is rejected with code 2; whatever BUSY is, a write to STATUS is
honoured and a write to a read-only or reserved offset is ignored without error. -/
def Obligations.WritesWhileBusy : Prop :=
  (∀ (s : State) (v : Word), s.busy = true →
    (∀ r : Reg, readOnly r = false → r ≠ .status → r ≠ .cmd →
      writeWord s (regOffset r) v =
        { s with err := true, errcode := if s.err then s.errcode else 4 }) ∧
    writeWord s 0x008 v =
      { s with done := false, err := true, errcode := if s.err then s.errcode else 2 }) ∧
  (∀ (s : State) (v : Word),
    writeWord s 0x004 v =
      { s with
        done := s.done && !v[1]
        err := s.err && !v[2]
        errcode := if v[2] then 0 else s.errcode
        xrange := s.xrange && !v[3] }) ∧
  ∀ (s : State) (off : Nat) (v : Word), (∀ r, regAt off = some r → readOnly r = true) →
    writeWord s off v = s

/-- 60_exceptions.md R164: the checks at issue, in their order, with the one code each reports, and
the acceptance that 30_encoding.md R72 gives (the model's own fields apart, log 3). -/
def Obligations.IssueChecksInOrder : Prop :=
  ∀ (s : State) (v : Word),
    (s.busy = true →
      writeWord s 0x008 v =
        { s with done := false, err := true, errcode := if s.err then s.errcode else 2 }) ∧
    (s.busy = false → v.extractLsb' 0 4 ∉ [0x1#4, 0x2#4, 0x3#4, 0x4#4] →
      writeWord s 0x008 v =
        { s with done := false, err := true, errcode := if s.err then s.errcode else 1 }) ∧
    (s.busy = false → v.extractLsb' 0 4 = 0x2 → 64 < s.plen.toNat →
      writeWord s 0x008 v =
        { s with done := false, err := true, errcode := if s.err then s.errcode else 3 }) ∧
    (s.busy = false → v.extractLsb' 0 4 ∈ [0x1#4, 0x2#4, 0x3#4, 0x4#4] →
      (v.extractLsb' 0 4 = 0x2 → s.plen.toNat ≤ 64) →
      writeWord s 0x008 v =
        { s with
          done := false
          busy := true
          pendingOp := v.extractLsb' 0 4
          delay := (writeWord s 0x008 v).delay
          accepted := s.accepted + 1 })

/-- 60_exceptions.md R162: first-error capture. -/
def Obligations.FirstRejectionIsKept : Prop :=
  (∀ (s : State) (c : RejectCode), s.err = false →
    reject s c = { s with err := true, errcode := rejectCode c }) ∧
  (∀ (s : State) (c : RejectCode), s.err = true → reject s c = s) ∧
  ∀ (s : State) (c d : RejectCode), reject (reject s c) d = reject s c

/-- 60_exceptions.md R165: a STATUS write of v clears DONE by v[1], ERR and ERRCODE by v[2], XRANGE
by v[3] and does nothing else; and no step lowers ERR, ERRCODE or XRANGE otherwise, but a reset. -/
def Obligations.StatusClearing : Prop :=
  (∀ (s : State) (v : Word),
    writeWord s 0x004 v =
      { s with
        done := if v[1] then false else s.done
        err := if v[2] then false else s.err
        errcode := if v[2] then 0 else s.errcode
        xrange := if v[3] then false else s.xrange }) ∧
  ∀ s t : State, step s = .next t →
    ((s.err = true ∧ (t.err = false ∨ t.errcode ≠ s.errcode)) →
      ∃ rest, s.script = .reset :: rest ∨
        ∃ v : Word, s.script = .access (.write 32 0x004 v) :: rest ∧ v[2] = true) ∧
    ((s.xrange = true ∧ t.xrange = false) →
      ∃ rest, s.script = .reset :: rest ∨
        ∃ v : Word, s.script = .access (.write 32 0x004 v) :: rest ∧ v[3] = true)

/-- 60_exceptions.md R160 with 10_state.md R23: what can raise each bit of STATUS: BUSY only a CMD
write, DONE only the engine, ERR only a host write, XRANGE only the engine step of ENCODE or
ENCODE_BUILD under Profile A with x > 0x0FFF. -/
def Obligations.StatusBitsRiseOnlyForTheirEvent : Prop :=
  ∀ s t : State, step s = .next t →
    (s.busy = false → t.busy = true →
      ∃ (v : Word) (rest : List HostEvent), s.script = .access (.write 32 0x008 v) :: rest) ∧
    (s.done = false → t.done = true → s.busy = true ∧ turn s = .engine) ∧
    (s.err = false → t.err = true →
      ∃ (off : Nat) (v : Word) (rest : List HostEvent),
        s.script = .access (.write 32 off v) :: rest ∧ off % 4 = 0 ∧ off < 0x400) ∧
    (s.xrange = false → t.xrange = true →
      turn s = .engine ∧ (pendingInstr s = .ok .encode ∨ pendingInstr s = .ok .encodeBuild) ∧
        s.profile = .a ∧ 0x0FFF < (opX s).toNat)

/-- 20_memory.md R58, R60: a legal read is performed whatever BUSY is, when its turn has come (the
model's own `delay`, log 3); the host gets the register word, and the block does not change. -/
def Obligations.ReadsChangeNothing : Prop :=
  ∀ (s : State) (off : Nat) (rest : List HostEvent),
    s.script = .access (.read 32 off) :: rest → off % 4 = 0 → off < 0x400 →
    (s.busy = true → 0 < s.delay) →
    ∃ t, step s = .next t ∧ t.reads = (off, readWord s off) :: s.reads ∧ t.script = rest ∧
      t.accepted = s.accepted ∧ sameBlock s t ∧ ∀ off', readWord t off' = readWord s off'

/-- 20_memory.md R57: a legal write whose turn has come is the dispatch of the rule on the block's
state; while BUSY it takes one of the accesses owed before the engine (log 3). -/
def Obligations.WriteStepIsTheDispatch : Prop :=
  ∀ (s : State) (off : Nat) (v : Word) (rest : List HostEvent),
    s.script = .access (.write 32 off v) :: rest → off % 4 = 0 → off < 0x400 →
    (s.busy = true → 0 < s.delay) →
    step s = .next (writeWord { s with script := rest, delay := s.delay - 1 } off v)

/-- 20_memory.md R60 with 60_exceptions.md R165: a repeated host write leaves the state the first one
left, but for a write of CMD, each of which issues a command. R60's other exception, a write of 1 to a
W1C bit of STATUS ("the second write finds the bit already 0"), is read as one about what the second
write finds and not about the state left: by R165 clearing a bit that is 0 leaves it 0. -/
def Obligations.RepeatedWriteIsIdempotent : Prop :=
  ∀ (s : State) (off : Nat) (v : Word), off ≠ 0x008 →
    writeWord (writeWord s off v) off v = writeWord s off v

/-- 20_memory.md R51, 60_exceptions.md R166: an access in the window that is not 32 bits wide or not
at a multiple of 4 is a bus error, a fault of the host that names the access; its read value is 0. A
legal read is answered with the register word, and a read at or above 0x400 is not answered by the block
(log 7). -/
def Obligations.BusErrorFaultsTheHost : Prop :=
  (∀ (s : State) (a : Access) (rest : List HostEvent), s.script = .access a :: rest →
    (s.busy = true → 0 < s.delay) → a.offset < 0x400 → (a.width ≠ 32 ∨ a.offset % 4 ≠ 0) →
    step s = .fault (.busError a)) ∧
  (∀ (s : State) (width off : Nat), off < 0x400 → (width ≠ 32 ∨ off % 4 ≠ 0) →
    busRead s width off = some 0) ∧
  (∀ (s : State) (off : Nat), off < 0x400 → off % 4 = 0 → busRead s 32 off = some (readWord s off)) ∧
  ∀ (s : State) (width off : Nat), 0x400 ≤ off → busRead s width off = none

/-- 93_implementation_defined.md I12 with log 7 (the model's choice of a refusal): an access at or
above 0x400 is not decoded by the block, and the model refuses it by name, whatever its width. -/
def Obligations.OutsideTheWindowIsRefused : Prop :=
  ∀ (s : State) (a : Access) (rest : List HostEvent), s.script = .access a :: rest →
    (s.busy = true → 0 < s.delay) → 0x400 ≤ a.offset → step s = .refused (.outsideWindow a)

/-! ### Reset -/

/-- 70_reset_and_hazards.md R180: after reset, at power-on or taken later in any state, every register
word reads 0 but PIXEL_RGBA, which reads 0x000000FF, PENDING_OP is 0, the block is idle, and the host's
next event has its turn at once. -/
def Obligations.ResetValues : Prop :=
  (∀ r : Reg, readReg State.reset r = if r = .pixelRgba then 0x000000FF else 0) ∧
  State.reset.pendingOp = 0 ∧ State.reset.busy = false ∧
  (∀ s : State, sameBlock State.reset (takeReset s)) ∧
  ∀ (s : State) (e : HostEvent) (rest : List HostEvent), s.script = e :: rest →
    turn (takeReset s) = .host e rest

/-- 70_reset_and_hazards.md R181: a reset that comes first, also while BUSY = 1, abandons the pending
command: the block is in its reset state, whatever it was. -/
def Obligations.ResetAbandonsThePendingCommand : Prop :=
  ∀ (s : State) (rest : List HostEvent), s.script = .reset :: rest →
    (s.busy = true → 0 < s.delay) →
    ∃ t, step s = .next t ∧ sameBlock State.reset t ∧ t.script = rest ∧ t.reads = s.reads

/-! ### The whole machine -/

/-- The legal-state invariant at reset. -/
def Obligations.ResetIsLegal : Prop := Legal State.reset

/-- 10_state.md R23 ("The invariant ERR = 0 -> ERRCODE = 0 holds in every reachable state"), R38,
60_exceptions.md R161, 42_framer.md R146, 41_checksum.md R124: every step keeps a legal state legal:
ERRCODE 0 exactly while ERR = 0 and never above 4, a pending opcode always a command the checks
accept with DONE = 0, FBUF exactly one frame and zeros with its FLEN, CSUM never 0xFFFF. -/
def Obligations.StepKeepsLegal : Prop :=
  ∀ s t : State, Legal s → step s = .next t → Legal t

/-- 20_memory.md R61 ("the operands an engine step reads equal the register values at the moment the
command was accepted"), 60_exceptions.md R168: a step of the host while BUSY = 1, other than a reset,
changes only DONE, ERR, ERRCODE and XRANGE of the block. -/
def Obligations.OperandsAreFrozenWhileBusy : Prop :=
  ∀ (s t : State) (e : HostEvent) (rest : List HostEvent), s.busy = true →
    turn s = .host e rest → e ≠ .reset → step s = .next t →
    t = { s with
          done := t.done, err := t.err, errcode := t.errcode, xrange := t.xrange,
          script := t.script, reads := t.reads, delay := s.delay - 1 }

/-- 42_framer.md R146 ("FBUF is written only by BUILD and ENCODE_BUILD"), 20_memory.md R62: the
result registers change only in the engine step of a command that writes them, or in a reset;
DST_IP also by a host write. -/
def Obligations.ResultsChangeOnlyByTheirCommand : Prop :=
  ∀ s t : State, step s = .next t → (∀ rest, s.script ≠ .reset :: rest) →
    ((t.fbuf ≠ s.fbuf ∨ t.flen ≠ s.flen) →
      turn s = .engine ∧ (pendingInstr s = .ok .build ∨ pendingInstr s = .ok .encodeBuild)) ∧
    (t.csum ≠ s.csum → turn s = .engine ∧ pendingInstr s ≠ .ok .encode) ∧
    (t.dstIp ≠ s.dstIp →
      (turn s = .engine ∧ (pendingInstr s = .ok .encode ∨ pendingInstr s = .ok .encodeBuild)) ∨
      ∃ (j : Nat) (v : Word) (rest : List HostEvent), j < 4 ∧ s.busy = false ∧
        s.script = .access (.write 32 (0x050 + 4 * j) v) :: rest)

/-- 70_reset_and_hazards.md R188, 20_memory.md R61 (the latency is the model's free value, log 3):
a pending command completes after finitely many steps, whatever legal accesses the host makes
meanwhile, and its results are those it would have had at once: only DONE, ERR, ERRCODE and XRANGE,
which the host may touch, and the host's own side can differ. -/
def Obligations.PendingCommandCompletesUnchanged : Prop :=
  ∀ (s : State) (i : Instr), s.busy = true → pendingInstr s = .ok i → quietScript s.script →
    ∃ (n : Nat) (t u : State), n ≤ s.delay + 1 ∧ Sys2Proof.core.run n s = .next t ∧
      exec i s = .next u ∧
      t = { u with
            err := t.err, errcode := t.errcode, xrange := t.xrange,
            script := t.script, reads := t.reads, delay := t.delay }

/-- 30_encoding.md R77, 70_reset_and_hazards.md R183, R188: a command the checks accept, followed by
`waitdone`, ends with the wait over and in the block exactly the results the command has on the
state it was issued in, for every latency (log 3); PENDING_OP keeps its opcode (log 18). -/
def Obligations.CommandThenWaitdoneDelivers : Prop :=
  ∀ (s : State) (i : Instr) (rest : List HostEvent), s.busy = false →
    (i = .csum → s.plen.toNat ≤ 64) → s.script = command i :: .waitdone :: rest →
    ∃ (n : Nat) (t u : State), Sys2Proof.core.run n s = .next t ∧ exec i s = .next u ∧
      t.script = rest ∧ sameBlock { u with pendingOp := opcode i } t

/-- 30_encoding.md R77: `waitdone` "never ends if the last CMD write was rejected with no command
pending": every number of steps leaves it waiting and the block as it was. -/
def Obligations.WaitdoneWithoutACommandNeverEnds : Prop :=
  ∀ (s : State) (rest : List HostEvent), s.busy = false → s.done = false →
    s.script = .waitdone :: rest →
    ∀ n : Nat, ∃ t, Sys2Proof.core.run n s = .next t ∧ t.script = .waitdone :: rest ∧ sameBlock s t

/-- 30_encoding.md R77: "`wait` terminates only if DONE or ERR becomes 1": with a legal command
pending it ends; with ERR = 1 the host's next poll ends it, possibly while BUSY = 1. -/
def Obligations.WaitEnds : Prop :=
  (∀ (s : State) (rest : List HostEvent), Legal s → s.busy = true → s.script = .wait :: rest →
    ∃ (n : Nat) (t : State), Sys2Proof.core.run n s = .next t ∧ t.script = rest) ∧
  ∀ (s : State) (rest : List HostEvent), s.err = true → s.script = .wait :: rest →
    (s.busy = true → 0 < s.delay) →
    ∃ t, step s = .next t ∧ t.script = rest ∧ t.busy = s.busy

/-- 30_encoding.md R77 with 20_memory.md R55: `wbytes` of as many octets as the array's words hold, on an
idle block, ends with the octets in the array from index 0, the missing octets of its last word 0, and
with no other octet and no other register changed. -/
def Obligations.WbytesSetsTheOctets : Prop :=
  ∀ (s : State) (arr : OctetArray) (os : List Byte) (rest : List HostEvent), s.busy = false →
    arr ≠ .fbuf → os.length ≤ 4 * arr.words → s.script = wbytes arr os ++ rest →
    ∃ (t : State) (F : Octets arr.length),
      Sys2Proof.core.run ((os.length + 3) / 4) s = .next t ∧ t.script = rest ∧
      sameBlock (setArray s arr F) t ∧
      ∀ (k : Nat) (h : k < arr.length),
        F[k] = if k < 4 * ((os.length + 3) / 4) then os.getD k 0 else (getArray s arr)[k]

/-- 30_encoding.md R77 with 20_memory.md R54: `rbytes` of as many octets as the array's words hold gives
the host the first octets of the array in order (0x00 past its end) and changes nothing of the block;
also while BUSY = 1, when the engine's step is not due before its reads (the model's own `delay`,
log 3). -/
def Obligations.RbytesGivesTheOctets : Prop :=
  ∀ (s : State) (arr : OctetArray) (n : Nat) (rest : List HostEvent), n ≤ 4 * arr.words →
    (s.busy = true → (n + 3) / 4 ≤ s.delay) → s.script = rbytes arr n ++ rest →
    ∃ t : State, Sys2Proof.core.run ((n + 3) / 4) s = .next t ∧ t.script = rest ∧ sameBlock s t ∧
      rbytesResult t.reads n = (List.range n).map (oct (getArray s arr))

/-- 60_exceptions.md R172, 70_reset_and_hazards.md R189: "while BUSY = 0 it is idle and every state
element keeps its value"; an ended run stays ended. -/
def Obligations.IdleBlockKeepsItsState : Prop :=
  ∀ s : State, s.script = [] → s.busy = false → step s = .next s ∧ runEnded s

/-- 70_reset_and_hazards.md R189: a run has ended exactly when BUSY = 0 and no event to come is the
host's, whatever resets may still come; after every further number of steps it has still ended; and
from BUSY = 1 with the host done it ends, by the engine step still owed or by a reset, when PENDING_OP
is a command. That resets may still come in an ended run, and that an ended run has steps without an
event, is the model's choice (log 2); that such a step changes nothing rests on 60_exceptions.md R172
("while BUSY = 0 it is idle and every state element keeps its value"). -/
def Obligations.EndedRunStaysEnded : Prop :=
  (∀ s : State, runEnded s ↔ s.busy = false ∧ ∀ e : HostEvent, e ≠ .reset → e ∉ s.script) ∧
  (∀ s : State, runEnded s → ∀ n : Nat, ∃ t, Sys2Proof.core.run n s = .next t ∧ runEnded t) ∧
  ∀ (s : State) (i : Instr), s.busy = true → pendingInstr s = .ok i → hostDone s →
    ¬ runEnded s ∧ ∃ t, step s = .next t ∧ runEnded t

/-- 40_address_encoder.md R107, 95_test_vectors.md V1: the source's worked example. -/
def Obligations.WorkedExampleAddress : Prop :=
  encodeAddress .a #v[0x26, 0x02, 0xfa, 0x9b, 0x02, 0x02, 0x00, 0x00] 10 20 255 0 128 255 1 =
    #v[0x26, 0x02, 0xfa, 0x9b, 0x02, 0x02, 0x10, 0x0a, 0x00, 0x14, 0x00, 0xff, 0x00, 0x00, 0x00, 0x80]
end

