-- ==== Sys2Proof/Laws/Bytes.lean ====
section
/-! SUPPORT. What the byte and word operations of Machine/Bytes.lean do, as numbers and by index. -/

namespace Sys2Proof.Machine

/-! ### Two octets and a 16-bit value -/

@[simp] theorem half_toNat (hi lo : Byte) : (half hi lo).toNat = 256 * hi.toNat + lo.toNat := by
  have := lo.isLt
  simp only [half, BitVec.toNat_append]
  rw [Nat.shiftLeft_eq, Nat.mul_comm, ← Nat.two_pow_add_eq_or_of_lt lo.isLt]

@[simp] theorem hiByte_toNat (h : Half) : (hiByte h).toNat = h.toNat / 256 := by
  have := h.isLt
  simp only [hiByte, BitVec.extractLsb'_toNat, Nat.shiftRight_eq_div_pow]
  omega

@[simp] theorem loByte_toNat (h : Half) : (loByte h).toNat = h.toNat % 256 := by simp [loByte]

@[simp] theorem half_hiByte_loByte (h : Half) : half (hiByte h) (loByte h) = h := by
  apply BitVec.eq_of_toNat_eq
  simp
  omega

@[simp] theorem hiByte_half (hi lo : Byte) : hiByte (half hi lo) = hi := by
  apply BitVec.eq_of_toNat_eq
  have := lo.isLt
  simp
  omega

@[simp] theorem loByte_half (hi lo : Byte) : loByte (half hi lo) = lo := by
  apply BitVec.eq_of_toNat_eq
  have := lo.isLt
  simp
  omega

theorem zeroExtend_byte_toNat (b : Byte) : (b.zeroExtend 16).toNat = b.toNat := by
  have := b.isLt
  simp
  omega

@[simp] theorem loByte_zeroExtend (b : Byte) : loByte (b.zeroExtend 16) = b := by
  apply BitVec.eq_of_toNat_eq
  have := b.isLt
  rw [loByte_toNat, zeroExtend_byte_toNat]
  omega

/-! ### Four octets and a word -/

theorem wordOf_toNat (o0 o1 o2 o3 : Byte) :
    (wordOf o0 o1 o2 o3).toNat =
      2 ^ 24 * o0.toNat + 2 ^ 16 * o1.toNat + 2 ^ 8 * o2.toNat + o3.toNat := by
  have := o0.isLt
  have := o1.isLt
  have := o2.isLt
  have := o3.isLt
  unfold wordOf
  simp only [BitVec.toNat_append, Nat.shiftLeft_eq]
  rw [Nat.mul_comm o0.toNat, ← Nat.two_pow_add_eq_or_of_lt (by omega), Nat.mul_comm _ (2 ^ 8),
    ← Nat.two_pow_add_eq_or_of_lt (by omega), Nat.mul_comm _ (2 ^ 8),
    ← Nat.two_pow_add_eq_or_of_lt (by omega)]
  omega

theorem byteOf_toNat (v : Word) (i : Nat) :
    (byteOf v i).toNat = v.toNat / 2 ^ (24 - 8 * i) % 256 := by
  simp [byteOf, Nat.shiftRight_eq_div_pow]

@[simp] theorem wordOf_byteOf (v : Word) :
    wordOf (byteOf v 0) (byteOf v 1) (byteOf v 2) (byteOf v 3) = v := by
  apply BitVec.eq_of_toNat_eq
  rw [wordOf_toNat]
  simp only [byteOf_toNat]
  have := v.isLt
  omega

theorem byteOf_wordOf (o0 o1 o2 o3 : Byte) :
    byteOf (wordOf o0 o1 o2 o3) 0 = o0 ∧ byteOf (wordOf o0 o1 o2 o3) 1 = o1 ∧
      byteOf (wordOf o0 o1 o2 o3) 2 = o2 ∧ byteOf (wordOf o0 o1 o2 o3) 3 = o3 := by
  have := o0.isLt
  have := o1.isLt
  have := o2.isLt
  have := o3.isLt
  refine ⟨?_, ?_, ?_, ?_⟩ <;>
  · apply BitVec.eq_of_toNat_eq
    rw [byteOf_toNat, wordOf_toNat]
    omega

theorem bit_getLsbD (b : Bool) (i : Nat) : (bit b).getLsbD i = (decide (i = 0) && b) := by
  cases b
  · simp [bit]
  · cases i <;> simp [bit]

/-! ### Octet arrays -/

theorem oct_of_lt {n : Nat} (F : Octets n) {k : Nat} (h : k < n) : oct F k = F[k] := by
  rw [oct, dif_pos h]

theorem oct_past {n : Nat} (F : Octets n) {k : Nat} (h : n ≤ k) : oct F k = 0 := by
  rw [oct, dif_neg (by omega)]

theorem toList_getD {n : Nat} (F : Octets n) (k : Nat) : F.toList.getD k 0 = oct F k := by
  unfold oct
  split
  · rw [List.getD_eq_getElem _ _ (by simpa)]
    simp
  · rw [List.getD_eq_default]
    simpa using by omega

/-- Octet `k` of an array after its word `j` is written. -/
theorem oct_writeOctets {n : Nat} (F : Octets n) (j : Nat) (v : Word) (k : Nat) :
    oct (writeOctets F j v) k = if k < n ∧ k / 4 = j then byteOf v (k % 4) else oct F k := by
  unfold oct
  split
  · rename_i h
    unfold writeOctets
    simp only [Vector.getElem_setIfInBounds h]
    repeat' split
    all_goals first
      | (exfalso; omega)
      | rfl
      | (congr 1; omega)
  · rename_i h
    rw [if_neg (by tauto)]

theorem oct_padOctets (frame : List Byte) (h : frame.length ≤ 64) (k : Nat) :
    oct (padOctets frame) k = frame.getD k 0 := by
  unfold oct padOctets
  split
  · simp
  · rw [List.getD_eq_default]
    omega

theorem octetRange_padOctets (frame : List Byte) (h : frame.length ≤ 64) (i j : Nat)
    (hj : j ≤ frame.length) : octetRange (padOctets frame) i j = (frame.drop i).take (j - i) := by
  apply List.ext_getElem
  · simp [octetRange]
    omega
  · intro k h1 h2
    simp only [octetRange, List.length_map, List.length_range] at h1
    simp only [octetRange, List.getElem_map, List.getElem_range, oct_padOctets frame h,
      List.getElem_take, List.getElem_drop]
    rw [List.getD_eq_getElem _ _ (by omega)]

end Sys2Proof.Machine
end

