-- ==== Sys2Proof/Laws/Checksum.lean ====
section
/-! SUPPORT. The checksum engine's sums as arithmetic on natural numbers. -/

namespace Sys2Proof.Machine

/-! ### The word sum (41_checksum.md R122) -/

theorem pair_low_first (o p : Byte) : o.toNat ||| (p.toNat <<< 8) = o.toNat + 256 * p.toNat := by
  rw [Nat.or_comm, Nat.shiftLeft_eq, Nat.mul_comm, ← Nat.two_pow_add_eq_or_of_lt o.isLt]
  omega

theorem pair_high_first (o p : Byte) : (o.toNat <<< 8) ||| p.toNat = 256 * o.toNat + p.toNat := by
  rw [Nat.shiftLeft_eq, Nat.mul_comm, ← Nat.two_pow_add_eq_or_of_lt p.isLt]

theorem wordSum_cons_cons (o p : Byte) (rest : List Byte) :
    wordSum (o :: p :: rest) = o.toNat + 256 * p.toNat + wordSum rest := by
  rw [wordSum, pair_low_first]

/-- A stream of an even number of octets ends a pair: sums of the parts add up. -/
theorem wordSum_append : ∀ p q : List Byte, p.length % 2 = 0 →
    wordSum (p ++ q) = wordSum p + wordSum q
  | [], q, _ => by simp [wordSum]
  | [_], q, h => by simp at h
  | o :: p :: rest, q, h => by
    have := wordSum_append rest q (by simp only [List.length_cons] at h; omega)
    simp only [List.cons_append, wordSum_cons_cons, this]
    omega

theorem wordSum_le : ∀ stream : List Byte, wordSum stream ≤ 0xFFFF * ((stream.length + 1) / 2)
  | [] => by simp [wordSum]
  | [o] => by
    have := o.isLt
    simp [wordSum]
    omega
  | o :: p :: rest => by
    have := wordSum_le rest
    have := o.isLt
    have := p.isLt
    rw [wordSum_cons_cons]
    simp only [List.length_cons]
    omega

theorem wordSumBigEndian_cons_cons (o p : Byte) (rest : List Byte) :
    wordSumBigEndian (o :: p :: rest) = 256 * o.toNat + p.toNat + wordSumBigEndian rest := by
  rw [wordSumBigEndian, pair_high_first]

theorem wordSumBigEndian_append : ∀ p q : List Byte, p.length % 2 = 0 →
    wordSumBigEndian (p ++ q) = wordSumBigEndian p + wordSumBigEndian q
  | [], q, _ => by simp [wordSumBigEndian]
  | [_], q, h => by simp at h
  | o :: p :: rest, q, h => by
    have := wordSumBigEndian_append rest q (by simp only [List.length_cons] at h; omega)
    simp only [List.cons_append, wordSumBigEndian, this]
    omega

/-- Modulo 65535 the two byte orders differ by a factor of 256. -/
theorem wordSumBigEndian_mod : ∀ stream : List Byte,
    wordSumBigEndian stream % 65535 = (256 * wordSum stream) % 65535
  | [] => by simp [wordSum, wordSumBigEndian]
  | [o] => by
    simp [wordSum, wordSumBigEndian, Nat.shiftLeft_eq]
    omega
  | o :: p :: rest => by
    have := wordSumBigEndian_mod rest
    rw [wordSum_cons_cons, wordSumBigEndian_cons_cons]
    omega

/-! ### The fold (R123) -/

theorem foldSteps_step (fuel sum : Nat) (h : 0xFFFF < sum) :
    foldSteps (fuel + 1) sum = foldSteps fuel (sum % 0x10000 + sum / 0x10000) := by
  have h1 : sum &&& 0xFFFF = sum % 0x10000 := by
    simpa using Nat.and_two_pow_sub_one_eq_mod sum 16
  simp [foldSteps, h, h1, Nat.shiftRight_eq_div_pow]

theorem foldSteps_done (fuel sum : Nat) (h : sum ≤ 0xFFFF) : foldSteps fuel sum = sum := by
  cases fuel <;> simp [foldSteps]
  omega

/-! ### The pseudo-header (R120) -/

theorem pseudoHeader_length (src dst : Octets 16) (len : Half) :
    (pseudoHeader src dst len).length = 38 := by
  simp [pseudoHeader]

theorem wordSum_pseudoHeader (src dst : Octets 16) (len : Half) :
    wordSum (pseudoHeader src dst len) =
      wordSum src.toList + wordSum dst.toList + (len.toNat / 256 + 256 * (len.toNat % 256)) +
        0x3A00 := by
  unfold pseudoHeader
  simp only [List.append_assoc]
  rw [wordSum_append _ _ (by simp), wordSum_append _ _ (by simp)]
  simp only [List.cons_append, List.nil_append, wordSum_cons_cons, wordSum, hiByte_toNat,
    loByte_toNat]
  simp
  omega

/-- The word sum of the whole stream of a checksum. -/
theorem wordSum_stream (src dst : Octets 16) (len : Half) (p : List Byte) :
    wordSum (pseudoHeader src dst len ++ p) =
      wordSum src.toList + wordSum dst.toList + (len.toNat / 256 + 256 * (len.toNat % 256)) +
        0x3A00 + wordSum p := by
  rw [wordSum_append _ _ (by simp [pseudoHeader_length]), wordSum_pseudoHeader]

/-- Within the range R120 defines, the length field is the payload's length. -/
theorem lengthField_eq {len : Nat} (h : len ≤ 65535) : lengthField len = BitVec.ofNat 16 len := by
  rw [lengthField, if_pos h]

theorem payload_length (s : State) : (payload s).length = s.plen.toNat := by simp [payload]

/-- Within the buffer the payload is the first octets of PBUF. -/
theorem payload_eq_take (s : State) (h : s.plen.toNat ≤ 64) :
    payload s = s.pbuf.toList.take s.plen.toNat := by
  apply List.ext_getElem
  · simp [payload]
    omega
  · intro k h1 h2
    simp only [payload, List.length_map, List.length_range] at h1
    have : k < Config.pPbufBytes := by
      unfold Config.pPbufBytes
      omega
    simp [payload, payloadOctet, this]

end Sys2Proof.Machine
end

