-- ==== Sys2Proof/Laws/Datapath.lean ====
section
/-! SUPPORT. The encoder's segments and the lengths of the framer's parts. -/

namespace Sys2Proof.Machine

/-! ### The encoder -/

/-- The octets of an address give its segments back. -/
@[simp] theorem segment_segmentOctets (seg : Vector Half 8) (i : Fin 8) :
    segment (segmentOctets seg) i = seg[i] := by
  fin_cases i <;> exact half_hiByte_loByte _

theorem segment_encodeAddress (profile : Profile) (pre : Octets 8) (x y : Half) (r g b a : Byte)
    (code : BitVec 2) (i : Fin 8) :
    segment (encodeAddress profile pre x y r g b a code) i =
      (encodeSegments profile pre x y r g b a code)[i] := by
  rw [encodeAddress, segment_segmentOctets]

theorem prefixMatches_iff (n : Nat) (pre : Octets 8) (A : Octets 16) :
    prefixMatches n pre A = true ↔ ∀ k, k < n → oct A k = oct pre k := by
  simp [prefixMatches]

/-- An `x` of 12 bits and the size code do not overlap in segment 3. -/
theorem segment3_toNat (x : Half) (code : BitVec 2) (hx : x.toNat ≤ 0x0FFF) :
    (x ||| (code.zeroExtend 16 <<< 12)).toNat = 4096 * code.toNat + x.toNat := by
  have := code.isLt
  rw [BitVec.toNat_or, BitVec.toNat_shiftLeft, BitVec.toNat_setWidth, Nat.or_comm,
    Nat.mod_eq_of_lt (by omega : code.toNat < 2 ^ 16), Nat.shiftLeft_eq,
    Nat.mod_eq_of_lt (by omega), Nat.mul_comm,
    ← Nat.two_pow_add_eq_or_of_lt (by omega : x.toNat < 2 ^ 12)]

/-! ### The framer -/

theorem linkHeader_length (link : Bool) (smac dmac : Octets 6) :
    (linkHeader link smac dmac).length = frameBase link := by
  cases link <;> simp [linkHeader, frameBase]

theorem ipHeader_length (src dst : Octets 16) : (ipHeader src dst).length = 40 := by
  simp [ipHeader]

theorem icmpMessage_length (c2 c3 : Byte) : (icmpMessage c2 c3).length = 8 := rfl

theorem frameOctets_length (link : Bool) (smac dmac : Octets 6) (src dst : Octets 16) :
    (frameOctets link smac dmac src dst).length = frameBase link + 48 := by
  simp [frameOctets, ipHeader_length, icmpMessage_length, linkHeader_length]

theorem frameBase_le (link : Bool) : frameBase link ≤ 14 := by cases link <;> simp [frameBase]

/-- The middle of three parts of a list. -/
theorem drop_take_middle {A B C : List Byte} {i n : Nat} (hA : A.length = i) (hB : B.length = n) :
    ((A ++ (B ++ C)).drop i).take n = B := by
  rw [List.drop_left' hA, List.take_left' hB]

end Sys2Proof.Machine
end

