-- ==== Sys2Proof/Laws/State.lean ====
section
/-! SUPPORT. Beside State: one lemma per field per update, each true by `rfl`, so that no proof
unfolds a record update. -/

namespace Sys2Proof.Machine

/-! ### complete -/

@[simp] theorem complete_profile (s : State) : (complete s).profile = s.profile := rfl
@[simp] theorem complete_linkEn (s : State) : (complete s).linkEn = s.linkEn := rfl
@[simp] theorem complete_busy (s : State) : (complete s).busy = false := rfl
@[simp] theorem complete_done (s : State) : (complete s).done = true := rfl
@[simp] theorem complete_err (s : State) : (complete s).err = s.err := rfl
@[simp] theorem complete_xrange (s : State) : (complete s).xrange = s.xrange := rfl
@[simp] theorem complete_errcode (s : State) : (complete s).errcode = s.errcode := rfl
@[simp] theorem complete_plen (s : State) : (complete s).plen = s.plen := rfl
@[simp] theorem complete_pixelXy (s : State) : (complete s).pixelXy = s.pixelXy := rfl
@[simp] theorem complete_pixelSize (s : State) : (complete s).pixelSize = s.pixelSize := rfl
@[simp] theorem complete_pixelRgba (s : State) : (complete s).pixelRgba = s.pixelRgba := rfl
@[simp] theorem complete_csum (s : State) : (complete s).csum = s.csum := rfl
@[simp] theorem complete_flen (s : State) : (complete s).flen = s.flen := rfl
@[simp] theorem complete_prefixes (s : State) : (complete s).prefixes = s.prefixes := rfl
@[simp] theorem complete_srcIp (s : State) : (complete s).srcIp = s.srcIp := rfl
@[simp] theorem complete_dstIp (s : State) : (complete s).dstIp = s.dstIp := rfl
@[simp] theorem complete_srcMac (s : State) : (complete s).srcMac = s.srcMac := rfl
@[simp] theorem complete_dstMac (s : State) : (complete s).dstMac = s.dstMac := rfl
@[simp] theorem complete_pbuf (s : State) : (complete s).pbuf = s.pbuf := rfl
@[simp] theorem complete_fbuf (s : State) : (complete s).fbuf = s.fbuf := rfl
@[simp] theorem complete_pendingOp (s : State) : (complete s).pendingOp = s.pendingOp := rfl
@[simp] theorem complete_script (s : State) : (complete s).script = s.script := rfl
@[simp] theorem complete_reads (s : State) : (complete s).reads = s.reads := rfl
@[simp] theorem complete_delay (s : State) : (complete s).delay = s.delay := rfl
@[simp] theorem complete_accepted (s : State) : (complete s).accepted = s.accepted := rfl

/-! ### clearDone -/

@[simp] theorem clearDone_profile (s : State) : (clearDone s).profile = s.profile := rfl
@[simp] theorem clearDone_linkEn (s : State) : (clearDone s).linkEn = s.linkEn := rfl
@[simp] theorem clearDone_busy (s : State) : (clearDone s).busy = s.busy := rfl
@[simp] theorem clearDone_done (s : State) : (clearDone s).done = false := rfl
@[simp] theorem clearDone_err (s : State) : (clearDone s).err = s.err := rfl
@[simp] theorem clearDone_xrange (s : State) : (clearDone s).xrange = s.xrange := rfl
@[simp] theorem clearDone_errcode (s : State) : (clearDone s).errcode = s.errcode := rfl
@[simp] theorem clearDone_plen (s : State) : (clearDone s).plen = s.plen := rfl
@[simp] theorem clearDone_pixelXy (s : State) : (clearDone s).pixelXy = s.pixelXy := rfl
@[simp] theorem clearDone_pixelSize (s : State) : (clearDone s).pixelSize = s.pixelSize := rfl
@[simp] theorem clearDone_pixelRgba (s : State) : (clearDone s).pixelRgba = s.pixelRgba := rfl
@[simp] theorem clearDone_csum (s : State) : (clearDone s).csum = s.csum := rfl
@[simp] theorem clearDone_flen (s : State) : (clearDone s).flen = s.flen := rfl
@[simp] theorem clearDone_prefixes (s : State) : (clearDone s).prefixes = s.prefixes := rfl
@[simp] theorem clearDone_srcIp (s : State) : (clearDone s).srcIp = s.srcIp := rfl
@[simp] theorem clearDone_dstIp (s : State) : (clearDone s).dstIp = s.dstIp := rfl
@[simp] theorem clearDone_srcMac (s : State) : (clearDone s).srcMac = s.srcMac := rfl
@[simp] theorem clearDone_dstMac (s : State) : (clearDone s).dstMac = s.dstMac := rfl
@[simp] theorem clearDone_pbuf (s : State) : (clearDone s).pbuf = s.pbuf := rfl
@[simp] theorem clearDone_fbuf (s : State) : (clearDone s).fbuf = s.fbuf := rfl
@[simp] theorem clearDone_pendingOp (s : State) : (clearDone s).pendingOp = s.pendingOp := rfl
@[simp] theorem clearDone_script (s : State) : (clearDone s).script = s.script := rfl
@[simp] theorem clearDone_reads (s : State) : (clearDone s).reads = s.reads := rfl
@[simp] theorem clearDone_delay (s : State) : (clearDone s).delay = s.delay := rfl
@[simp] theorem clearDone_accepted (s : State) : (clearDone s).accepted = s.accepted := rfl

/-! ### warnXrange -/

@[simp] theorem warnXrange_profile (s : State) : (warnXrange s).profile = s.profile := rfl
@[simp] theorem warnXrange_linkEn (s : State) : (warnXrange s).linkEn = s.linkEn := rfl
@[simp] theorem warnXrange_busy (s : State) : (warnXrange s).busy = s.busy := rfl
@[simp] theorem warnXrange_done (s : State) : (warnXrange s).done = s.done := rfl
@[simp] theorem warnXrange_err (s : State) : (warnXrange s).err = s.err := rfl
@[simp] theorem warnXrange_xrange (s : State) :
    (warnXrange s).xrange =
      (s.xrange || xOutOfRange s) := rfl
@[simp] theorem warnXrange_errcode (s : State) : (warnXrange s).errcode = s.errcode := rfl
@[simp] theorem warnXrange_plen (s : State) : (warnXrange s).plen = s.plen := rfl
@[simp] theorem warnXrange_pixelXy (s : State) : (warnXrange s).pixelXy = s.pixelXy := rfl
@[simp] theorem warnXrange_pixelSize (s : State) : (warnXrange s).pixelSize = s.pixelSize := rfl
@[simp] theorem warnXrange_pixelRgba (s : State) : (warnXrange s).pixelRgba = s.pixelRgba := rfl
@[simp] theorem warnXrange_csum (s : State) : (warnXrange s).csum = s.csum := rfl
@[simp] theorem warnXrange_flen (s : State) : (warnXrange s).flen = s.flen := rfl
@[simp] theorem warnXrange_prefixes (s : State) : (warnXrange s).prefixes = s.prefixes := rfl
@[simp] theorem warnXrange_srcIp (s : State) : (warnXrange s).srcIp = s.srcIp := rfl
@[simp] theorem warnXrange_dstIp (s : State) : (warnXrange s).dstIp = s.dstIp := rfl
@[simp] theorem warnXrange_srcMac (s : State) : (warnXrange s).srcMac = s.srcMac := rfl
@[simp] theorem warnXrange_dstMac (s : State) : (warnXrange s).dstMac = s.dstMac := rfl
@[simp] theorem warnXrange_pbuf (s : State) : (warnXrange s).pbuf = s.pbuf := rfl
@[simp] theorem warnXrange_fbuf (s : State) : (warnXrange s).fbuf = s.fbuf := rfl
@[simp] theorem warnXrange_pendingOp (s : State) : (warnXrange s).pendingOp = s.pendingOp := rfl
@[simp] theorem warnXrange_script (s : State) : (warnXrange s).script = s.script := rfl
@[simp] theorem warnXrange_reads (s : State) : (warnXrange s).reads = s.reads := rfl
@[simp] theorem warnXrange_delay (s : State) : (warnXrange s).delay = s.delay := rfl
@[simp] theorem warnXrange_accepted (s : State) : (warnXrange s).accepted = s.accepted := rfl

/-! ### writeStatus -/

@[simp] theorem writeStatus_profile (s : State) (v : Word) :
    (writeStatus s v).profile =
      s.profile := rfl
@[simp] theorem writeStatus_linkEn (s : State) (v : Word) :
    (writeStatus s v).linkEn =
      s.linkEn := rfl
@[simp] theorem writeStatus_busy (s : State) (v : Word) : (writeStatus s v).busy = s.busy := rfl
@[simp] theorem writeStatus_done (s : State) (v : Word) :
    (writeStatus s v).done =
      (s.done && !v[1]) := rfl
@[simp] theorem writeStatus_err (s : State) (v : Word) :
    (writeStatus s v).err =
      (s.err && !v[2]) := rfl
@[simp] theorem writeStatus_xrange (s : State) (v : Word) :
    (writeStatus s v).xrange =
      (s.xrange && !v[3]) := rfl
@[simp] theorem writeStatus_errcode (s : State) (v : Word) :
    (writeStatus s v).errcode =
      if v[2] then 0 else s.errcode := rfl
@[simp] theorem writeStatus_plen (s : State) (v : Word) : (writeStatus s v).plen = s.plen := rfl
@[simp] theorem writeStatus_pixelXy (s : State) (v : Word) :
    (writeStatus s v).pixelXy =
      s.pixelXy := rfl
@[simp] theorem writeStatus_pixelSize (s : State) (v : Word) :
    (writeStatus s v).pixelSize =
      s.pixelSize := rfl
@[simp] theorem writeStatus_pixelRgba (s : State) (v : Word) :
    (writeStatus s v).pixelRgba =
      s.pixelRgba := rfl
@[simp] theorem writeStatus_csum (s : State) (v : Word) : (writeStatus s v).csum = s.csum := rfl
@[simp] theorem writeStatus_flen (s : State) (v : Word) : (writeStatus s v).flen = s.flen := rfl
@[simp] theorem writeStatus_prefixes (s : State) (v : Word) :
    (writeStatus s v).prefixes =
      s.prefixes := rfl
@[simp] theorem writeStatus_srcIp (s : State) (v : Word) : (writeStatus s v).srcIp = s.srcIp := rfl
@[simp] theorem writeStatus_dstIp (s : State) (v : Word) : (writeStatus s v).dstIp = s.dstIp := rfl
@[simp] theorem writeStatus_srcMac (s : State) (v : Word) :
    (writeStatus s v).srcMac =
      s.srcMac := rfl
@[simp] theorem writeStatus_dstMac (s : State) (v : Word) :
    (writeStatus s v).dstMac =
      s.dstMac := rfl
@[simp] theorem writeStatus_pbuf (s : State) (v : Word) : (writeStatus s v).pbuf = s.pbuf := rfl
@[simp] theorem writeStatus_fbuf (s : State) (v : Word) : (writeStatus s v).fbuf = s.fbuf := rfl
@[simp] theorem writeStatus_pendingOp (s : State) (v : Word) :
    (writeStatus s v).pendingOp =
      s.pendingOp := rfl
@[simp] theorem writeStatus_script (s : State) (v : Word) :
    (writeStatus s v).script =
      s.script := rfl
@[simp] theorem writeStatus_reads (s : State) (v : Word) : (writeStatus s v).reads = s.reads := rfl
@[simp] theorem writeStatus_delay (s : State) (v : Word) : (writeStatus s v).delay = s.delay := rfl
@[simp] theorem writeStatus_accepted (s : State) (v : Word) :
    (writeStatus s v).accepted =
      s.accepted := rfl

/-! ### acceptCommand -/

@[simp] theorem acceptCommand_profile (s : State) (op : BitVec 4) :
    (acceptCommand s op).profile =
      s.profile := rfl
@[simp] theorem acceptCommand_linkEn (s : State) (op : BitVec 4) :
    (acceptCommand s op).linkEn =
      s.linkEn := rfl
@[simp] theorem acceptCommand_busy (s : State) (op : BitVec 4) :
    (acceptCommand s op).busy =
      true := rfl
@[simp] theorem acceptCommand_done (s : State) (op : BitVec 4) :
    (acceptCommand s op).done =
      s.done := rfl
@[simp] theorem acceptCommand_err (s : State) (op : BitVec 4) :
    (acceptCommand s op).err =
      s.err := rfl
@[simp] theorem acceptCommand_xrange (s : State) (op : BitVec 4) :
    (acceptCommand s op).xrange =
      s.xrange := rfl
@[simp] theorem acceptCommand_errcode (s : State) (op : BitVec 4) :
    (acceptCommand s op).errcode =
      s.errcode := rfl
@[simp] theorem acceptCommand_plen (s : State) (op : BitVec 4) :
    (acceptCommand s op).plen =
      s.plen := rfl
@[simp] theorem acceptCommand_pixelXy (s : State) (op : BitVec 4) :
    (acceptCommand s op).pixelXy =
      s.pixelXy := rfl
@[simp] theorem acceptCommand_pixelSize (s : State) (op : BitVec 4) :
    (acceptCommand s op).pixelSize =
      s.pixelSize := rfl
@[simp] theorem acceptCommand_pixelRgba (s : State) (op : BitVec 4) :
    (acceptCommand s op).pixelRgba =
      s.pixelRgba := rfl
@[simp] theorem acceptCommand_csum (s : State) (op : BitVec 4) :
    (acceptCommand s op).csum =
      s.csum := rfl
@[simp] theorem acceptCommand_flen (s : State) (op : BitVec 4) :
    (acceptCommand s op).flen =
      s.flen := rfl
@[simp] theorem acceptCommand_prefixes (s : State) (op : BitVec 4) :
    (acceptCommand s op).prefixes =
      s.prefixes := rfl
@[simp] theorem acceptCommand_srcIp (s : State) (op : BitVec 4) :
    (acceptCommand s op).srcIp =
      s.srcIp := rfl
@[simp] theorem acceptCommand_dstIp (s : State) (op : BitVec 4) :
    (acceptCommand s op).dstIp =
      s.dstIp := rfl
@[simp] theorem acceptCommand_srcMac (s : State) (op : BitVec 4) :
    (acceptCommand s op).srcMac =
      s.srcMac := rfl
@[simp] theorem acceptCommand_dstMac (s : State) (op : BitVec 4) :
    (acceptCommand s op).dstMac =
      s.dstMac := rfl
@[simp] theorem acceptCommand_pbuf (s : State) (op : BitVec 4) :
    (acceptCommand s op).pbuf =
      s.pbuf := rfl
@[simp] theorem acceptCommand_fbuf (s : State) (op : BitVec 4) :
    (acceptCommand s op).fbuf =
      s.fbuf := rfl
@[simp] theorem acceptCommand_pendingOp (s : State) (op : BitVec 4) :
    (acceptCommand s op).pendingOp =
      op := rfl
@[simp] theorem acceptCommand_script (s : State) (op : BitVec 4) :
    (acceptCommand s op).script =
      s.script := rfl
@[simp] theorem acceptCommand_reads (s : State) (op : BitVec 4) :
    (acceptCommand s op).reads =
      s.reads := rfl
@[simp] theorem acceptCommand_delay (s : State) (op : BitVec 4) :
    (acceptCommand s op).delay =
      Config.latency s.accepted := rfl
@[simp] theorem acceptCommand_accepted (s : State) (op : BitVec 4) :
    (acceptCommand s op).accepted =
      s.accepted + 1 := rfl

/-! ### countAccess -/

@[simp] theorem countAccess_profile (s : State) : (countAccess s).profile = s.profile := rfl
@[simp] theorem countAccess_linkEn (s : State) : (countAccess s).linkEn = s.linkEn := rfl
@[simp] theorem countAccess_busy (s : State) : (countAccess s).busy = s.busy := rfl
@[simp] theorem countAccess_done (s : State) : (countAccess s).done = s.done := rfl
@[simp] theorem countAccess_err (s : State) : (countAccess s).err = s.err := rfl
@[simp] theorem countAccess_xrange (s : State) : (countAccess s).xrange = s.xrange := rfl
@[simp] theorem countAccess_errcode (s : State) : (countAccess s).errcode = s.errcode := rfl
@[simp] theorem countAccess_plen (s : State) : (countAccess s).plen = s.plen := rfl
@[simp] theorem countAccess_pixelXy (s : State) : (countAccess s).pixelXy = s.pixelXy := rfl
@[simp] theorem countAccess_pixelSize (s : State) : (countAccess s).pixelSize = s.pixelSize := rfl
@[simp] theorem countAccess_pixelRgba (s : State) : (countAccess s).pixelRgba = s.pixelRgba := rfl
@[simp] theorem countAccess_csum (s : State) : (countAccess s).csum = s.csum := rfl
@[simp] theorem countAccess_flen (s : State) : (countAccess s).flen = s.flen := rfl
@[simp] theorem countAccess_prefixes (s : State) : (countAccess s).prefixes = s.prefixes := rfl
@[simp] theorem countAccess_srcIp (s : State) : (countAccess s).srcIp = s.srcIp := rfl
@[simp] theorem countAccess_dstIp (s : State) : (countAccess s).dstIp = s.dstIp := rfl
@[simp] theorem countAccess_srcMac (s : State) : (countAccess s).srcMac = s.srcMac := rfl
@[simp] theorem countAccess_dstMac (s : State) : (countAccess s).dstMac = s.dstMac := rfl
@[simp] theorem countAccess_pbuf (s : State) : (countAccess s).pbuf = s.pbuf := rfl
@[simp] theorem countAccess_fbuf (s : State) : (countAccess s).fbuf = s.fbuf := rfl
@[simp] theorem countAccess_pendingOp (s : State) : (countAccess s).pendingOp = s.pendingOp := rfl
@[simp] theorem countAccess_script (s : State) : (countAccess s).script = s.script := rfl
@[simp] theorem countAccess_reads (s : State) : (countAccess s).reads = s.reads := rfl
@[simp] theorem countAccess_delay (s : State) : (countAccess s).delay = s.delay - 1 := rfl
@[simp] theorem countAccess_accepted (s : State) : (countAccess s).accepted = s.accepted := rfl

/-! ### setScript -/

@[simp] theorem setScript_profile (s : State) (es : List HostEvent) :
    (setScript s es).profile =
      s.profile := rfl
@[simp] theorem setScript_linkEn (s : State) (es : List HostEvent) :
    (setScript s es).linkEn =
      s.linkEn := rfl
@[simp] theorem setScript_busy (s : State) (es : List HostEvent) :
    (setScript s es).busy =
      s.busy := rfl
@[simp] theorem setScript_done (s : State) (es : List HostEvent) :
    (setScript s es).done =
      s.done := rfl
@[simp] theorem setScript_err (s : State) (es : List HostEvent) :
    (setScript s es).err =
      s.err := rfl
@[simp] theorem setScript_xrange (s : State) (es : List HostEvent) :
    (setScript s es).xrange =
      s.xrange := rfl
@[simp] theorem setScript_errcode (s : State) (es : List HostEvent) :
    (setScript s es).errcode =
      s.errcode := rfl
@[simp] theorem setScript_plen (s : State) (es : List HostEvent) :
    (setScript s es).plen =
      s.plen := rfl
@[simp] theorem setScript_pixelXy (s : State) (es : List HostEvent) :
    (setScript s es).pixelXy =
      s.pixelXy := rfl
@[simp] theorem setScript_pixelSize (s : State) (es : List HostEvent) :
    (setScript s es).pixelSize =
      s.pixelSize := rfl
@[simp] theorem setScript_pixelRgba (s : State) (es : List HostEvent) :
    (setScript s es).pixelRgba =
      s.pixelRgba := rfl
@[simp] theorem setScript_csum (s : State) (es : List HostEvent) :
    (setScript s es).csum =
      s.csum := rfl
@[simp] theorem setScript_flen (s : State) (es : List HostEvent) :
    (setScript s es).flen =
      s.flen := rfl
@[simp] theorem setScript_prefixes (s : State) (es : List HostEvent) :
    (setScript s es).prefixes =
      s.prefixes := rfl
@[simp] theorem setScript_srcIp (s : State) (es : List HostEvent) :
    (setScript s es).srcIp =
      s.srcIp := rfl
@[simp] theorem setScript_dstIp (s : State) (es : List HostEvent) :
    (setScript s es).dstIp =
      s.dstIp := rfl
@[simp] theorem setScript_srcMac (s : State) (es : List HostEvent) :
    (setScript s es).srcMac =
      s.srcMac := rfl
@[simp] theorem setScript_dstMac (s : State) (es : List HostEvent) :
    (setScript s es).dstMac =
      s.dstMac := rfl
@[simp] theorem setScript_pbuf (s : State) (es : List HostEvent) :
    (setScript s es).pbuf =
      s.pbuf := rfl
@[simp] theorem setScript_fbuf (s : State) (es : List HostEvent) :
    (setScript s es).fbuf =
      s.fbuf := rfl
@[simp] theorem setScript_pendingOp (s : State) (es : List HostEvent) :
    (setScript s es).pendingOp =
      s.pendingOp := rfl
@[simp] theorem setScript_script (s : State) (es : List HostEvent) :
    (setScript s es).script =
      es := rfl
@[simp] theorem setScript_reads (s : State) (es : List HostEvent) :
    (setScript s es).reads =
      s.reads := rfl
@[simp] theorem setScript_delay (s : State) (es : List HostEvent) :
    (setScript s es).delay =
      s.delay := rfl
@[simp] theorem setScript_accepted (s : State) (es : List HostEvent) :
    (setScript s es).accepted =
      s.accepted := rfl

/-! ### hostRead -/

@[simp] theorem hostRead_profile (s : State) (off : Nat) :
    (hostRead s off).profile =
      s.profile := rfl
@[simp] theorem hostRead_linkEn (s : State) (off : Nat) : (hostRead s off).linkEn = s.linkEn := rfl
@[simp] theorem hostRead_busy (s : State) (off : Nat) : (hostRead s off).busy = s.busy := rfl
@[simp] theorem hostRead_done (s : State) (off : Nat) : (hostRead s off).done = s.done := rfl
@[simp] theorem hostRead_err (s : State) (off : Nat) : (hostRead s off).err = s.err := rfl
@[simp] theorem hostRead_xrange (s : State) (off : Nat) : (hostRead s off).xrange = s.xrange := rfl
@[simp] theorem hostRead_errcode (s : State) (off : Nat) :
    (hostRead s off).errcode =
      s.errcode := rfl
@[simp] theorem hostRead_plen (s : State) (off : Nat) : (hostRead s off).plen = s.plen := rfl
@[simp] theorem hostRead_pixelXy (s : State) (off : Nat) :
    (hostRead s off).pixelXy =
      s.pixelXy := rfl
@[simp] theorem hostRead_pixelSize (s : State) (off : Nat) :
    (hostRead s off).pixelSize =
      s.pixelSize := rfl
@[simp] theorem hostRead_pixelRgba (s : State) (off : Nat) :
    (hostRead s off).pixelRgba =
      s.pixelRgba := rfl
@[simp] theorem hostRead_csum (s : State) (off : Nat) : (hostRead s off).csum = s.csum := rfl
@[simp] theorem hostRead_flen (s : State) (off : Nat) : (hostRead s off).flen = s.flen := rfl
@[simp] theorem hostRead_prefixes (s : State) (off : Nat) :
    (hostRead s off).prefixes =
      s.prefixes := rfl
@[simp] theorem hostRead_srcIp (s : State) (off : Nat) : (hostRead s off).srcIp = s.srcIp := rfl
@[simp] theorem hostRead_dstIp (s : State) (off : Nat) : (hostRead s off).dstIp = s.dstIp := rfl
@[simp] theorem hostRead_srcMac (s : State) (off : Nat) : (hostRead s off).srcMac = s.srcMac := rfl
@[simp] theorem hostRead_dstMac (s : State) (off : Nat) : (hostRead s off).dstMac = s.dstMac := rfl
@[simp] theorem hostRead_pbuf (s : State) (off : Nat) : (hostRead s off).pbuf = s.pbuf := rfl
@[simp] theorem hostRead_fbuf (s : State) (off : Nat) : (hostRead s off).fbuf = s.fbuf := rfl
@[simp] theorem hostRead_pendingOp (s : State) (off : Nat) :
    (hostRead s off).pendingOp =
      s.pendingOp := rfl
@[simp] theorem hostRead_script (s : State) (off : Nat) : (hostRead s off).script = s.script := rfl
@[simp] theorem hostRead_reads (s : State) (off : Nat) :
    (hostRead s off).reads =
      (off, readWord s off) :: s.reads := rfl
@[simp] theorem hostRead_delay (s : State) (off : Nat) : (hostRead s off).delay = s.delay - 1 := rfl
@[simp] theorem hostRead_accepted (s : State) (off : Nat) :
    (hostRead s off).accepted =
      s.accepted := rfl

/-! ### encodeBody -/

@[simp] theorem encodeBody_profile (s : State) : (encodeBody s).profile = s.profile := rfl
@[simp] theorem encodeBody_linkEn (s : State) : (encodeBody s).linkEn = s.linkEn := rfl
@[simp] theorem encodeBody_busy (s : State) : (encodeBody s).busy = s.busy := rfl
@[simp] theorem encodeBody_done (s : State) : (encodeBody s).done = s.done := rfl
@[simp] theorem encodeBody_err (s : State) : (encodeBody s).err = s.err := rfl
@[simp] theorem encodeBody_xrange (s : State) :
    (encodeBody s).xrange =
      (s.xrange || xOutOfRange s) := rfl
@[simp] theorem encodeBody_errcode (s : State) : (encodeBody s).errcode = s.errcode := rfl
@[simp] theorem encodeBody_plen (s : State) : (encodeBody s).plen = s.plen := rfl
@[simp] theorem encodeBody_pixelXy (s : State) : (encodeBody s).pixelXy = s.pixelXy := rfl
@[simp] theorem encodeBody_pixelSize (s : State) : (encodeBody s).pixelSize = s.pixelSize := rfl
@[simp] theorem encodeBody_pixelRgba (s : State) : (encodeBody s).pixelRgba = s.pixelRgba := rfl
@[simp] theorem encodeBody_csum (s : State) : (encodeBody s).csum = s.csum := rfl
@[simp] theorem encodeBody_flen (s : State) : (encodeBody s).flen = s.flen := rfl
@[simp] theorem encodeBody_prefixes (s : State) : (encodeBody s).prefixes = s.prefixes := rfl
@[simp] theorem encodeBody_srcIp (s : State) : (encodeBody s).srcIp = s.srcIp := rfl
@[simp] theorem encodeBody_dstIp (s : State) :
    (encodeBody s).dstIp =
      encodeAddress s.profile s.prefixes (opX s) (opY s) (opR s) (opG s) (opB s) (opA s)
      (sizeCode s.pixelSize) := rfl
@[simp] theorem encodeBody_srcMac (s : State) : (encodeBody s).srcMac = s.srcMac := rfl
@[simp] theorem encodeBody_dstMac (s : State) : (encodeBody s).dstMac = s.dstMac := rfl
@[simp] theorem encodeBody_pbuf (s : State) : (encodeBody s).pbuf = s.pbuf := rfl
@[simp] theorem encodeBody_fbuf (s : State) : (encodeBody s).fbuf = s.fbuf := rfl
@[simp] theorem encodeBody_pendingOp (s : State) : (encodeBody s).pendingOp = s.pendingOp := rfl
@[simp] theorem encodeBody_script (s : State) : (encodeBody s).script = s.script := rfl
@[simp] theorem encodeBody_reads (s : State) : (encodeBody s).reads = s.reads := rfl
@[simp] theorem encodeBody_delay (s : State) : (encodeBody s).delay = s.delay := rfl
@[simp] theorem encodeBody_accepted (s : State) : (encodeBody s).accepted = s.accepted := rfl

/-! ### buildBody -/

@[simp] theorem buildBody_profile (s : State) : (buildBody s).profile = s.profile := rfl
@[simp] theorem buildBody_linkEn (s : State) : (buildBody s).linkEn = s.linkEn := rfl
@[simp] theorem buildBody_busy (s : State) : (buildBody s).busy = s.busy := rfl
@[simp] theorem buildBody_done (s : State) : (buildBody s).done = s.done := rfl
@[simp] theorem buildBody_err (s : State) : (buildBody s).err = s.err := rfl
@[simp] theorem buildBody_xrange (s : State) : (buildBody s).xrange = s.xrange := rfl
@[simp] theorem buildBody_errcode (s : State) : (buildBody s).errcode = s.errcode := rfl
@[simp] theorem buildBody_plen (s : State) : (buildBody s).plen = s.plen := rfl
@[simp] theorem buildBody_pixelXy (s : State) : (buildBody s).pixelXy = s.pixelXy := rfl
@[simp] theorem buildBody_pixelSize (s : State) : (buildBody s).pixelSize = s.pixelSize := rfl
@[simp] theorem buildBody_pixelRgba (s : State) : (buildBody s).pixelRgba = s.pixelRgba := rfl
@[simp] theorem buildBody_csum (s : State) :
    (buildBody s).csum =
      frameChecksum s.srcIp s.dstIp := rfl
@[simp] theorem buildBody_flen (s : State) :
    (buildBody s).flen =
      BitVec.ofNat 16 (frameOctets s.linkEn s.srcMac s.dstMac s.srcIp s.dstIp).length := rfl
@[simp] theorem buildBody_prefixes (s : State) : (buildBody s).prefixes = s.prefixes := rfl
@[simp] theorem buildBody_srcIp (s : State) : (buildBody s).srcIp = s.srcIp := rfl
@[simp] theorem buildBody_dstIp (s : State) : (buildBody s).dstIp = s.dstIp := rfl
@[simp] theorem buildBody_srcMac (s : State) : (buildBody s).srcMac = s.srcMac := rfl
@[simp] theorem buildBody_dstMac (s : State) : (buildBody s).dstMac = s.dstMac := rfl
@[simp] theorem buildBody_pbuf (s : State) : (buildBody s).pbuf = s.pbuf := rfl
@[simp] theorem buildBody_fbuf (s : State) :
    (buildBody s).fbuf =
      padOctets (frameOctets s.linkEn s.srcMac s.dstMac s.srcIp s.dstIp) := rfl
@[simp] theorem buildBody_pendingOp (s : State) : (buildBody s).pendingOp = s.pendingOp := rfl
@[simp] theorem buildBody_script (s : State) : (buildBody s).script = s.script := rfl
@[simp] theorem buildBody_reads (s : State) : (buildBody s).reads = s.reads := rfl
@[simp] theorem buildBody_delay (s : State) : (buildBody s).delay = s.delay := rfl
@[simp] theorem buildBody_accepted (s : State) : (buildBody s).accepted = s.accepted := rfl

/-! ### takeReset -/

@[simp] theorem takeReset_profile (s : State) : (takeReset s).profile = .a := rfl
@[simp] theorem takeReset_linkEn (s : State) : (takeReset s).linkEn = false := rfl
@[simp] theorem takeReset_busy (s : State) : (takeReset s).busy = false := rfl
@[simp] theorem takeReset_done (s : State) : (takeReset s).done = false := rfl
@[simp] theorem takeReset_err (s : State) : (takeReset s).err = false := rfl
@[simp] theorem takeReset_xrange (s : State) : (takeReset s).xrange = false := rfl
@[simp] theorem takeReset_errcode (s : State) : (takeReset s).errcode = 0 := rfl
@[simp] theorem takeReset_plen (s : State) : (takeReset s).plen = 0 := rfl
@[simp] theorem takeReset_pixelXy (s : State) : (takeReset s).pixelXy = 0 := rfl
@[simp] theorem takeReset_pixelSize (s : State) : (takeReset s).pixelSize = .singlePixel := rfl
@[simp] theorem takeReset_pixelRgba (s : State) : (takeReset s).pixelRgba = 0x000000FF := rfl
@[simp] theorem takeReset_csum (s : State) : (takeReset s).csum = 0 := rfl
@[simp] theorem takeReset_flen (s : State) : (takeReset s).flen = 0 := rfl
@[simp] theorem takeReset_prefixes (s : State) :
    (takeReset s).prefixes =
      Vector.replicate 8 0 := rfl
@[simp] theorem takeReset_srcIp (s : State) : (takeReset s).srcIp = Vector.replicate 16 0 := rfl
@[simp] theorem takeReset_dstIp (s : State) : (takeReset s).dstIp = Vector.replicate 16 0 := rfl
@[simp] theorem takeReset_srcMac (s : State) : (takeReset s).srcMac = Vector.replicate 6 0 := rfl
@[simp] theorem takeReset_dstMac (s : State) : (takeReset s).dstMac = Vector.replicate 6 0 := rfl
@[simp] theorem takeReset_pbuf (s : State) : (takeReset s).pbuf = Vector.replicate 64 0 := rfl
@[simp] theorem takeReset_fbuf (s : State) : (takeReset s).fbuf = Vector.replicate 64 0 := rfl
@[simp] theorem takeReset_pendingOp (s : State) : (takeReset s).pendingOp = 0 := rfl
@[simp] theorem takeReset_script (s : State) : (takeReset s).script = s.script := rfl
@[simp] theorem takeReset_reads (s : State) : (takeReset s).reads = s.reads := rfl
@[simp] theorem takeReset_delay (s : State) : (takeReset s).delay = 0 := rfl
@[simp] theorem takeReset_accepted (s : State) : (takeReset s).accepted = s.accepted := rfl

/-! ### reject: only ERR and ERRCODE, and only if ERR is 0 -/

@[simp] theorem reject_profile (s : State) (c : RejectCode) : (reject s c).profile = s.profile := by
  unfold reject; split <;> rfl
@[simp] theorem reject_linkEn (s : State) (c : RejectCode) : (reject s c).linkEn = s.linkEn := by
  unfold reject; split <;> rfl
@[simp] theorem reject_busy (s : State) (c : RejectCode) : (reject s c).busy = s.busy := by
  unfold reject; split <;> rfl
@[simp] theorem reject_done (s : State) (c : RejectCode) : (reject s c).done = s.done := by
  unfold reject; split <;> rfl
@[simp] theorem reject_xrange (s : State) (c : RejectCode) : (reject s c).xrange = s.xrange := by
  unfold reject; split <;> rfl
@[simp] theorem reject_plen (s : State) (c : RejectCode) : (reject s c).plen = s.plen := by
  unfold reject; split <;> rfl
@[simp] theorem reject_pixelXy (s : State) (c : RejectCode) : (reject s c).pixelXy = s.pixelXy := by
  unfold reject; split <;> rfl
@[simp] theorem reject_pixelSize (s : State) (c : RejectCode) : (reject s c).pixelSize = s.pixelSize := by
  unfold reject; split <;> rfl
@[simp] theorem reject_pixelRgba (s : State) (c : RejectCode) : (reject s c).pixelRgba = s.pixelRgba := by
  unfold reject; split <;> rfl
@[simp] theorem reject_csum (s : State) (c : RejectCode) : (reject s c).csum = s.csum := by
  unfold reject; split <;> rfl
@[simp] theorem reject_flen (s : State) (c : RejectCode) : (reject s c).flen = s.flen := by
  unfold reject; split <;> rfl
@[simp] theorem reject_prefixes (s : State) (c : RejectCode) : (reject s c).prefixes = s.prefixes := by
  unfold reject; split <;> rfl
@[simp] theorem reject_srcIp (s : State) (c : RejectCode) : (reject s c).srcIp = s.srcIp := by
  unfold reject; split <;> rfl
@[simp] theorem reject_dstIp (s : State) (c : RejectCode) : (reject s c).dstIp = s.dstIp := by
  unfold reject; split <;> rfl
@[simp] theorem reject_srcMac (s : State) (c : RejectCode) : (reject s c).srcMac = s.srcMac := by
  unfold reject; split <;> rfl
@[simp] theorem reject_dstMac (s : State) (c : RejectCode) : (reject s c).dstMac = s.dstMac := by
  unfold reject; split <;> rfl
@[simp] theorem reject_pbuf (s : State) (c : RejectCode) : (reject s c).pbuf = s.pbuf := by
  unfold reject; split <;> rfl
@[simp] theorem reject_fbuf (s : State) (c : RejectCode) : (reject s c).fbuf = s.fbuf := by
  unfold reject; split <;> rfl
@[simp] theorem reject_pendingOp (s : State) (c : RejectCode) : (reject s c).pendingOp = s.pendingOp := by
  unfold reject; split <;> rfl
@[simp] theorem reject_script (s : State) (c : RejectCode) : (reject s c).script = s.script := by
  unfold reject; split <;> rfl
@[simp] theorem reject_reads (s : State) (c : RejectCode) : (reject s c).reads = s.reads := by
  unfold reject; split <;> rfl
@[simp] theorem reject_delay (s : State) (c : RejectCode) : (reject s c).delay = s.delay := by
  unfold reject; split <;> rfl
@[simp] theorem reject_accepted (s : State) (c : RejectCode) : (reject s c).accepted = s.accepted := by
  unfold reject; split <;> rfl
@[simp] theorem reject_err (s : State) (c : RejectCode) : (reject s c).err = true := by
  unfold reject; split <;> simp_all
@[simp] theorem reject_errcode (s : State) (c : RejectCode) :
    (reject s c).errcode = if s.err then s.errcode else rejectCode c := by
  unfold reject; split <;> simp_all

/-- A rejection as one record update (60_exceptions.md R162). -/
theorem reject_eq (s : State) (c : RejectCode) :
    reject s c =
      { s with err := true, errcode := if s.err then s.errcode else rejectCode c } := by
  unfold reject
  cases h : s.err
  · simp
  · simp [← h]

/-! ### setArray: one octet array, nothing else -/

@[simp] theorem setArray_profile (s : State) (arr : OctetArray) (F : Octets arr.length) :
    (setArray s arr F).profile = s.profile := by cases arr <;> rfl
@[simp] theorem setArray_linkEn (s : State) (arr : OctetArray) (F : Octets arr.length) :
    (setArray s arr F).linkEn = s.linkEn := by cases arr <;> rfl
@[simp] theorem setArray_busy (s : State) (arr : OctetArray) (F : Octets arr.length) :
    (setArray s arr F).busy = s.busy := by cases arr <;> rfl
@[simp] theorem setArray_done (s : State) (arr : OctetArray) (F : Octets arr.length) :
    (setArray s arr F).done = s.done := by cases arr <;> rfl
@[simp] theorem setArray_err (s : State) (arr : OctetArray) (F : Octets arr.length) :
    (setArray s arr F).err = s.err := by cases arr <;> rfl
@[simp] theorem setArray_xrange (s : State) (arr : OctetArray) (F : Octets arr.length) :
    (setArray s arr F).xrange = s.xrange := by cases arr <;> rfl
@[simp] theorem setArray_errcode (s : State) (arr : OctetArray) (F : Octets arr.length) :
    (setArray s arr F).errcode = s.errcode := by cases arr <;> rfl
@[simp] theorem setArray_plen (s : State) (arr : OctetArray) (F : Octets arr.length) :
    (setArray s arr F).plen = s.plen := by cases arr <;> rfl
@[simp] theorem setArray_pixelXy (s : State) (arr : OctetArray) (F : Octets arr.length) :
    (setArray s arr F).pixelXy = s.pixelXy := by cases arr <;> rfl
@[simp] theorem setArray_pixelSize (s : State) (arr : OctetArray) (F : Octets arr.length) :
    (setArray s arr F).pixelSize = s.pixelSize := by cases arr <;> rfl
@[simp] theorem setArray_pixelRgba (s : State) (arr : OctetArray) (F : Octets arr.length) :
    (setArray s arr F).pixelRgba = s.pixelRgba := by cases arr <;> rfl
@[simp] theorem setArray_csum (s : State) (arr : OctetArray) (F : Octets arr.length) :
    (setArray s arr F).csum = s.csum := by cases arr <;> rfl
@[simp] theorem setArray_flen (s : State) (arr : OctetArray) (F : Octets arr.length) :
    (setArray s arr F).flen = s.flen := by cases arr <;> rfl
@[simp] theorem setArray_pendingOp (s : State) (arr : OctetArray) (F : Octets arr.length) :
    (setArray s arr F).pendingOp = s.pendingOp := by cases arr <;> rfl
@[simp] theorem setArray_script (s : State) (arr : OctetArray) (F : Octets arr.length) :
    (setArray s arr F).script = s.script := by cases arr <;> rfl
@[simp] theorem setArray_reads (s : State) (arr : OctetArray) (F : Octets arr.length) :
    (setArray s arr F).reads = s.reads := by cases arr <;> rfl
@[simp] theorem setArray_delay (s : State) (arr : OctetArray) (F : Octets arr.length) :
    (setArray s arr F).delay = s.delay := by cases arr <;> rfl
@[simp] theorem setArray_accepted (s : State) (arr : OctetArray) (F : Octets arr.length) :
    (setArray s arr F).accepted = s.accepted := by cases arr <;> rfl
@[simp] theorem getArray_setArray (s : State) (arr : OctetArray) (F : Octets arr.length) :
    getArray (setArray s arr F) arr = F := by cases arr <;> rfl

@[simp] theorem setArray_getArray (s : State) (arr : OctetArray) :
    setArray s arr (getArray s arr) = s := by
  cases arr <;> rfl

@[simp] theorem setArray_setArray (s : State) (arr : OctetArray) (F G : Octets arr.length) :
    setArray (setArray s arr F) arr G = setArray s arr G := by
  cases arr <;> rfl

theorem getArray_setArray_of_ne (s : State) {arr arr' : OctetArray} (h : arr' ≠ arr)
    (F : Octets arr.length) : getArray (setArray s arr F) arr' = getArray s arr' := by
  cases arr <;> cases arr' <;> first | rfl | exact absurd rfl h

/-! ### writeReg: the fields of one writable register, nothing else -/

/-- A write of an array's word is a write of its four octets (20_memory.md R55). -/
theorem writeReg_octets (s : State) (arr : OctetArray) (h : arr ≠ .fbuf) (j : Fin arr.words)
    (v : Word) :
    writeReg s (.octets arr j) v = setArray s arr (writeOctets (getArray s arr) j.val v) := by
  cases arr <;> first | rfl | exact absurd rfl h

@[simp] theorem writeReg_busy (s : State) (r : Reg) (v : Word) :
    (writeReg s r v).busy = s.busy := by
  rcases r with _ | _ | _ | _ | _ | _ | _ | _ | _ | ⟨arr, j⟩
  case octets =>
    by_cases h : arr = .fbuf
    · subst h; rfl
    · rw [writeReg_octets s arr h, setArray_busy]
  all_goals rfl
@[simp] theorem writeReg_done (s : State) (r : Reg) (v : Word) :
    (writeReg s r v).done = s.done := by
  rcases r with _ | _ | _ | _ | _ | _ | _ | _ | _ | ⟨arr, j⟩
  case octets =>
    by_cases h : arr = .fbuf
    · subst h; rfl
    · rw [writeReg_octets s arr h, setArray_done]
  all_goals rfl
@[simp] theorem writeReg_err (s : State) (r : Reg) (v : Word) :
    (writeReg s r v).err = s.err := by
  rcases r with _ | _ | _ | _ | _ | _ | _ | _ | _ | ⟨arr, j⟩
  case octets =>
    by_cases h : arr = .fbuf
    · subst h; rfl
    · rw [writeReg_octets s arr h, setArray_err]
  all_goals rfl
@[simp] theorem writeReg_xrange (s : State) (r : Reg) (v : Word) :
    (writeReg s r v).xrange = s.xrange := by
  rcases r with _ | _ | _ | _ | _ | _ | _ | _ | _ | ⟨arr, j⟩
  case octets =>
    by_cases h : arr = .fbuf
    · subst h; rfl
    · rw [writeReg_octets s arr h, setArray_xrange]
  all_goals rfl
@[simp] theorem writeReg_errcode (s : State) (r : Reg) (v : Word) :
    (writeReg s r v).errcode = s.errcode := by
  rcases r with _ | _ | _ | _ | _ | _ | _ | _ | _ | ⟨arr, j⟩
  case octets =>
    by_cases h : arr = .fbuf
    · subst h; rfl
    · rw [writeReg_octets s arr h, setArray_errcode]
  all_goals rfl
@[simp] theorem writeReg_csum (s : State) (r : Reg) (v : Word) :
    (writeReg s r v).csum = s.csum := by
  rcases r with _ | _ | _ | _ | _ | _ | _ | _ | _ | ⟨arr, j⟩
  case octets =>
    by_cases h : arr = .fbuf
    · subst h; rfl
    · rw [writeReg_octets s arr h, setArray_csum]
  all_goals rfl
@[simp] theorem writeReg_flen (s : State) (r : Reg) (v : Word) :
    (writeReg s r v).flen = s.flen := by
  rcases r with _ | _ | _ | _ | _ | _ | _ | _ | _ | ⟨arr, j⟩
  case octets =>
    by_cases h : arr = .fbuf
    · subst h; rfl
    · rw [writeReg_octets s arr h, setArray_flen]
  all_goals rfl
@[simp] theorem writeReg_pendingOp (s : State) (r : Reg) (v : Word) :
    (writeReg s r v).pendingOp = s.pendingOp := by
  rcases r with _ | _ | _ | _ | _ | _ | _ | _ | _ | ⟨arr, j⟩
  case octets =>
    by_cases h : arr = .fbuf
    · subst h; rfl
    · rw [writeReg_octets s arr h, setArray_pendingOp]
  all_goals rfl
@[simp] theorem writeReg_script (s : State) (r : Reg) (v : Word) :
    (writeReg s r v).script = s.script := by
  rcases r with _ | _ | _ | _ | _ | _ | _ | _ | _ | ⟨arr, j⟩
  case octets =>
    by_cases h : arr = .fbuf
    · subst h; rfl
    · rw [writeReg_octets s arr h, setArray_script]
  all_goals rfl
@[simp] theorem writeReg_reads (s : State) (r : Reg) (v : Word) :
    (writeReg s r v).reads = s.reads := by
  rcases r with _ | _ | _ | _ | _ | _ | _ | _ | _ | ⟨arr, j⟩
  case octets =>
    by_cases h : arr = .fbuf
    · subst h; rfl
    · rw [writeReg_octets s arr h, setArray_reads]
  all_goals rfl
@[simp] theorem writeReg_delay (s : State) (r : Reg) (v : Word) :
    (writeReg s r v).delay = s.delay := by
  rcases r with _ | _ | _ | _ | _ | _ | _ | _ | _ | ⟨arr, j⟩
  case octets =>
    by_cases h : arr = .fbuf
    · subst h; rfl
    · rw [writeReg_octets s arr h, setArray_delay]
  all_goals rfl
@[simp] theorem writeReg_accepted (s : State) (r : Reg) (v : Word) :
    (writeReg s r v).accepted = s.accepted := by
  rcases r with _ | _ | _ | _ | _ | _ | _ | _ | _ | ⟨arr, j⟩
  case octets =>
    by_cases h : arr = .fbuf
    · subst h; rfl
    · rw [writeReg_octets s arr h, setArray_accepted]
  all_goals rfl
@[simp] theorem writeReg_fbuf (s : State) (r : Reg) (v : Word) :
    (writeReg s r v).fbuf = s.fbuf := by
  rcases r with _ | _ | _ | _ | _ | _ | _ | _ | _ | ⟨arr, j⟩
  case octets =>
    by_cases h : arr = .fbuf
    · subst h; rfl
    · rw [writeReg_octets s arr h]
      exact getArray_setArray_of_ne s (Ne.symm h) _
  all_goals rfl

end Sys2Proof.Machine
end

