-- ==== Sys2Proof/Laws/Ops.lean ====
section
/-! SUPPORT. For each shared operation on registers, what it can do: decoding an opcode, issuing a
command, writing a word of the window. -/

namespace Sys2Proof.Machine

/-! ### Decoding -/

theorem decodeOp_opcode (i : Instr) : decodeOp (opcode i) = .ok i := by cases i <;> rfl

/-- Every opcode is that of a command, or reserved. -/
theorem decodeOp_cases (op : BitVec 4) :
    (∃ i, decodeOp op = .ok i ∧ op = opcode i) ∨
      (decodeOp op = .error (.reservedOpcode op) ∧ op ∉ [0x1#4, 0x2#4, 0x3#4, 0x4#4]) := by
  have h : ∀ op : BitVec 4,
      (∃ i ∈ [Instr.encode, .csum, .build, .encodeBuild], decodeOp op = .ok i ∧ op = opcode i) ∨
        (decodeOp op = .error (.reservedOpcode op) ∧ op ∉ [0x1#4, 0x2#4, 0x3#4, 0x4#4]) := by
    decide
  rcases h op with ⟨i, -, hi⟩ | h
  · exact .inl ⟨i, hi⟩
  · exact .inr h

theorem decodeOp_ok {op : BitVec 4} {i : Instr} (h : decodeOp op = .ok i) : op = opcode i := by
  rcases decodeOp_cases op with ⟨j, hj, he⟩ | ⟨he, -⟩ <;> rw [h] at *
  · cases hj
    exact he
  · cases he

theorem decodeOp_error {op : BitVec 4} {e : DecodeError} (h : decodeOp op = .error e) :
    e = .reservedOpcode op ∧ op ∉ [0x1#4, 0x2#4, 0x3#4, 0x4#4] := by
  rcases decodeOp_cases op with ⟨j, hj, -⟩ | ⟨he, hr⟩ <;> rw [h] at *
  · cases hj
  · cases he
    exact ⟨rfl, hr⟩

/-- The ignored bits 31:4 of a command word do not reach its opcode field. -/
theorem opField_append (w : BitVec 28) (o : BitVec 4) : opField (w ++ o) = o := by
  unfold opField
  apply BitVec.eq_of_toNat_eq
  have := o.isLt
  rw [BitVec.extractLsb'_toNat, BitVec.toNat_append, Nat.shiftLeft_eq, Nat.mul_comm,
    ← Nat.two_pow_add_eq_or_of_lt o.isLt]
  simp
  omega

theorem hexValue_hexDigit (d : BitVec 4) : hexValue (hexDigit d) = some d := by
  revert d
  decide

/-! ### Issuing a command -/

theorem issueCommand_busy (s : State) (v : Word) (h : s.busy = true) :
    issueCommand s v = reject (clearDone s) .cmdBusy := by
  simp [issueCommand, h]

theorem issueCommand_reserved (s : State) (v : Word) (h : s.busy = false) {e : DecodeError}
    (hv : decode v = .error e) : issueCommand s v = reject (clearDone s) .reservedOp := by
  simp [issueCommand, h, hv]

theorem issueCommand_accepted (s : State) (v : Word) (h : s.busy = false) {i : Instr}
    (hi : decode v = .ok i) (hp : i = .csum → s.plen.toNat ≤ 64) :
    issueCommand s v = acceptCommand (clearDone s) (opField v) := by
  cases i <;> simp [issueCommand, h, hi]
  have := hp rfl
  intro h2
  unfold Config.pPbufBytes at h2
  omega

/-- A CMD write is a rejection, or the acceptance of a command that the checks let through. -/
theorem issueCommand_cases (s : State) (v : Word) :
    (∃ c, issueCommand s v = reject (clearDone s) c) ∨
      (s.busy = false ∧ issueCommand s v = acceptCommand (clearDone s) (opField v) ∧
        ∃ i, decode v = .ok i ∧ (i = .csum → s.plen.toNat ≤ 64)) := by
  cases hb : s.busy
  · cases hd : decode v with
    | error e => exact .inl ⟨_, issueCommand_reserved s v hb hd⟩
    | ok i =>
      by_cases hp : i = .csum ∧ 64 < s.plen.toNat
      · obtain ⟨rfl, hp⟩ := hp
        exact .inl ⟨.plenRange, by simp [issueCommand, hb, hd, hp]⟩
      · have hp' : i = .csum → s.plen.toNat ≤ 64 := by
          intro h
          by_contra h2
          exact hp ⟨h, by omega⟩
        exact .inr ⟨rfl, issueCommand_accepted s v hb hd hp', i, rfl, hp'⟩
  · exact .inl ⟨_, issueCommand_busy s v hb⟩

/-! ### The register window -/

theorem arrayWordAt_iff (arr : OctetArray) (off : Nat) (hoff : off % 4 = 0) (r : Reg) :
    arrayWordAt arr off = some r ↔
      ∃ j : Fin arr.words, r = .octets arr j ∧ off = arrayBase arr + 4 * j.val := by
  have hb : arrayBase arr % 4 = 0 := by cases arr <;> rfl
  unfold arrayWordAt
  constructor
  · intro h
    split at h
    · cases h
      exact ⟨_, rfl, by simp only; omega⟩
    · cases h
  · rintro ⟨j, rfl, rfl⟩
    have e : (arrayBase arr + 4 * j.val - arrayBase arr) / 4 = j.val := by omega
    have h2 : (arrayBase arr + 4 * j.val - arrayBase arr) / 4 < arr.words := by
      rw [e]
      exact j.isLt
    rw [dif_pos ⟨by omega, h2⟩]
    congr 2
    exact Fin.ext e

/-- A write of a word of the window does one of five things. -/
theorem writeWord_cases (s : State) (off : Nat) (v : Word) :
    (writeWord s off v = s ∧ ∀ r, regAt off = some r → readOnly r = true) ∨
    (regAt off = some .status ∧ writeWord s off v = writeStatus s v) ∨
    (regAt off = some .cmd ∧ writeWord s off v = issueCommand s v) ∨
    (s.busy = true ∧ writeWord s off v = reject s .writeBusy) ∨
    (s.busy = false ∧ ∃ r, regAt off = some r ∧ readOnly r = false ∧ r ≠ .status ∧ r ≠ .cmd ∧
      writeWord s off v = writeReg s r v) := by
  cases hr : regAt off with
  | none => exact .inl ⟨by simp [writeWord, hr], by simp⟩
  | some r =>
    by_cases h1 : readOnly r = true
    · refine .inl ⟨?_, by simpa using h1⟩
      unfold writeWord
      rw [hr]
      rcases r with _ | _ | _ | _ | _ | _ | _ | _ | _ | ⟨arr, j⟩ <;> simp_all [readOnly]
    simp only [Bool.not_eq_true] at h1
    by_cases h2 : r = .status
    · subst h2
      exact .inr (.inl ⟨rfl, by simp [writeWord, hr]⟩)
    by_cases h3 : r = .cmd
    · subst h3
      exact .inr (.inr (.inl ⟨rfl, by simp [writeWord, hr]⟩))
    have hw : writeWord s off v = if s.busy then reject s .writeBusy else writeReg s r v := by
      unfold writeWord
      rw [hr]
      rcases r with _ | _ | _ | _ | _ | _ | _ | _ | _ | ⟨arr, j⟩ <;>
        first | exact absurd rfl h2 | exact absurd rfl h3 | simp [h1]
    cases hb : s.busy
    · exact .inr (.inr (.inr (.inr ⟨rfl, r, rfl, h1, h2, h3, by simp [hw, hb]⟩)))
    · exact .inr (.inr (.inr (.inl ⟨rfl, by simp [hw, hb]⟩)))

/-- The bits of STATUS that the waits poll. -/
theorem statusWord_done_err (s : State) :
    (statusWord s)[1] = s.done ∧ (statusWord s)[2] = s.err := by
  constructor <;>
  · rw [← BitVec.getLsbD_eq_getElem]
    simp only [statusWord, BitVec.getLsbD_or, BitVec.getLsbD_shiftLeft, bit_getLsbD]
    simp

end Sys2Proof.Machine
end

