-- ==== Sys2Proof/Laws/PerInstr.lean ====
section
/-! SUPPORT. One lemma per command: its word fits its row of spec/opcode_table.json. -/

namespace Sys2Proof.Laws

/-- The `match` column of the command's row of spec/opcode_table.json. -/
def tableMatch : Instr → Word
  | .encode => 0x00000001
  | .csum => 0x00000002
  | .build => 0x00000003
  | .encodeBuild => 0x00000004

/-- The command is well formed; its word fits its own row under the table's one mask 0x0000000F, no
other row, and decodes to it. -/
def FitsTable.Statement (i : Instr) : Prop :=
  i.wf = true ∧ encode i &&& 0x0000000F = tableMatch i ∧
    (∀ j, encode i &&& 0x0000000F = tableMatch j → j = i) ∧ decode (encode i) = .ok i

theorem FitsTable.encode : FitsTable.Statement .encode :=
  ⟨rfl, rfl, fun j h => by cases j <;> first | rfl | exact absurd h (by decide), rfl⟩

theorem FitsTable.csum : FitsTable.Statement .csum :=
  ⟨rfl, rfl, fun j h => by cases j <;> first | rfl | exact absurd h (by decide), rfl⟩

theorem FitsTable.build : FitsTable.Statement .build :=
  ⟨rfl, rfl, fun j h => by cases j <;> first | rfl | exact absurd h (by decide), rfl⟩

theorem FitsTable.encodeBuild : FitsTable.Statement .encodeBuild :=
  ⟨rfl, rfl, fun j h => by cases j <;> first | rfl | exact absurd h (by decide), rfl⟩

end Sys2Proof.Laws
end

