-- ==== Sys2Proof/Laws/Step.lean ====
section
/-! SUPPORT. What one step can do, said once: whose turn it is, what a host event does, what the
engine does. -/

namespace Sys2Proof.Machine

theorem turn_cases (s : State) :
    (turn s = .engine ∧ s.busy = true) ∨
      (∃ e rest, turn s = .host e rest ∧ s.script = e :: rest) ∨
      (turn s = .idle ∧ s.script = [] ∧ s.busy = false) := by
  unfold turn
  cases hs : s.script <;> cases hb : s.busy <;> simp
  cases s.delay <;> simp

/-- The host's turn, unless the engine's pending step is due. -/
theorem turn_host {s : State} {e : HostEvent} {rest : List HostEvent} (hs : s.script = e :: rest)
    (hb : s.busy = true → 0 < s.delay) : turn s = .host e rest := by
  unfold turn
  rw [hs]
  cases h : s.busy
  · simp
  · have := hb h
    have h0 : (s.delay == 0) = false := by
      simp
      omega
    simp [h0]

/-- The engine's turn: a pending step that is due, or no event to come. -/
theorem turn_engine {s : State} (hb : s.busy = true) (hd : s.delay = 0 ∨ s.script = []) :
    turn s = .engine := by
  unfold turn
  rcases hs : s.script with _ | ⟨e, rest⟩
  · simp [hb]
  · rcases hd with hd | hd
    · simp [hb, hd]
    · simp [hd] at hs

/-- A well-formed access is performed. -/
theorem performAccess_wf (s : State) (a : Access) (h : a.wf = true) :
    performAccess s a =
      .next (match a with
        | .read _ off => hostRead s off
        | .write _ off v => hostWrite s off v) := by
  unfold Access.wf at h
  simp only [Bool.and_eq_true] at h
  unfold performAccess
  rw [if_pos h.1, if_pos h.2]
  cases a <;> rfl

/-- A host event that ends in a next state reads a word, writes a word, or is the reset. -/
theorem hostStep_cases {s t : State} {e : HostEvent} {rest : List HostEvent}
    (h : hostStep s e rest = .next t) :
    (∃ sc off, t = hostRead (setScript s sc) off ∧ ∀ v o, e ≠ .access (.write 32 o v)) ∨
    (∃ off v, e = .access (.write 32 off v) ∧ off % 4 = 0 ∧ off < 0x400 ∧
      t = writeWord (countAccess (setScript s rest)) off v) ∨
    (e = .reset ∧ t = takeReset (setScript s rest)) := by
  cases e with
  | access a =>
    simp only [hostStep, performAccess] at h
    split at h
    · rename_i h1
      split at h
      · rename_i h2
        cases a with
        | read w off =>
          simp only [Host.Outcome.next.injEq] at h
          exact .inl ⟨_, _, h.symm, by simp⟩
        | write w off v =>
          simp only [Host.Outcome.next.injEq] at h
          simp only [Access.aligned32, Bool.and_eq_true, decide_eq_true_eq] at h2
          simp only [Access.inWindow, decide_eq_true_eq] at h1
          obtain ⟨rfl, h3⟩ := h2
          exact .inr (.inl ⟨off, v, rfl, h3, h1, h.symm⟩)
      · cases h
    · cases h
  | wait =>
    simp only [hostStep] at h
    split at h <;> simp only [Host.Outcome.next.injEq] at h <;>
      exact .inl ⟨_, _, h.symm, by simp⟩
  | waitdone =>
    simp only [hostStep] at h
    split at h <;> simp only [Host.Outcome.next.injEq] at h <;>
      exact .inl ⟨_, _, h.symm, by simp⟩
  | reset =>
    simp only [hostStep, Host.Outcome.next.injEq] at h
    exact .inr (.inr ⟨rfl, h.symm⟩)

/-- A step that ends in a next state is the engine's, the host's, or none. -/
theorem step_cases {s t : State} (h : step s = .next t) :
    (turn s = .engine ∧ s.busy = true ∧ ∃ i, pendingInstr s = .ok i ∧ exec i s = .next t) ∨
    (∃ e rest, turn s = .host e rest ∧ s.script = e :: rest ∧ hostStep s e rest = .next t) ∨
    t = s := by
  unfold step at h
  rcases turn_cases s with ⟨h1, h2⟩ | ⟨e, rest, h1, h2⟩ | ⟨h1, -, -⟩ <;> rw [h1] at h <;>
    simp only at h
  · refine .inl ⟨h1, h2, ?_⟩
    cases hp : pendingInstr s <;> rw [hp] at h <;> simp at h
    exact ⟨_, rfl, h⟩
  · exact .inr (.inl ⟨e, rest, h1, h2, h⟩)
  · cases h
    exact .inr (.inr rfl)

/-- STATUS after an engine step. -/
theorem exec_status {i : Instr} {s t : State} (h : exec i s = .next t) :
    t.err = s.err ∧ t.errcode = s.errcode ∧ t.busy = false ∧ t.done = true ∧
      (t.xrange = s.xrange ∨
        ((i = .encode ∨ i = .encodeBuild) ∧ t.xrange = (s.xrange || xOutOfRange s))) := by
  cases i <;> cases h <;> simp

/-- A run takes its first step. -/
theorem run_succ (n : Nat) (s t : State) (h : step s = .next t) :
    Sys2Proof.core.run (n + 1) s = Sys2Proof.core.run n t := by
  have h' : Sys2Proof.core.step s = .next t := h
  simp only [Host.Core.run, h']

/-- A run takes one more step at its end. -/
theorem run_snoc : ∀ (n : Nat) (s t u : State), Sys2Proof.core.run n s = .next t →
    step t = .next u → Sys2Proof.core.run (n + 1) s = .next u
  | 0, s, t, u, hr, hu => by
    cases hr
    rw [run_succ 0 s u hu]
    rfl
  | n + 1, s, t, u, hr, hu => by
    cases hs : step s with
    | next s' =>
      rw [run_succ n s s' hs] at hr
      rw [run_succ (n + 1) s s' hs]
      exact run_snoc n s' t u hr hu
    | fault r =>
      have h' : Sys2Proof.core.step s = .fault r := hs
      simp [Host.Core.run, h'] at hr
    | refused r =>
      have h' : Sys2Proof.core.step s = .refused r := hs
      simp [Host.Core.run, h'] at hr

end Sys2Proof.Machine
end

