-- ==== Sys2Proof/Tests/Slice0.lean ====
section
/-! SUPPORT. Small tests on fixed values, their expected results from spec/95_test_vectors.md, and a
witness for the hypotheses of every statement that has some. -/

namespace Sys2Proof.Machine.Tests

/-! ### Helpers -/

/-- The next state of a step, if there is one. -/
def next? (o : Host.Outcome State Fault Refusal) : Option State :=
  match o with
  | .next t => some t
  | .fault _ => none
  | .refused _ => none

/-- The words of an octet array, as the host reads them. -/
def words (s : State) (arr : OctetArray) : List Word :=
  (List.finRange arr.words).map fun j => readReg s (.octets arr j)

/-- The state after the writes of (register, value) pairs, each by the host's dispatch. -/
def wrote (s : State) : List (Reg × Word) → State
  | [] => s
  | (r, v) :: rest => wrote (writeWord s (regOffset r) v) rest

/-- A command is pending, with `delay` host accesses owed before its engine step. -/
def pendingState (op : BitVec 4) (delay : Nat) (script : List HostEvent) : State :=
  { State.reset with busy := true, pendingOp := op, delay := delay, script := script }

/-- The events still to come of an idle block. -/
def idleWith (script : List HostEvent) : State := { State.reset with script := script }

/-- The Profile A configuration of V1 and V7. -/
def profileA : State := wrote State.reset [(.octets .prefixes 0, 0x2602FA9B),
  (.octets .prefixes 1, 0x02020000)]

/-- The Profile B configuration of V8. -/
def profileB : State := wrote State.reset [(.ctrl, 1), (.octets .prefixes 0, 0xFD001111),
  (.octets .prefixes 1, 0x22223333)]

/-- The addresses `SRC` and `DSTA` of 95_test_vectors.md. -/
def addressed : State := wrote State.reset [(.octets .srcIp 0, 0x20010DB8), (.octets .srcIp 3, 1),
  (.octets .dstIp 0, 0x2602FA9B), (.octets .dstIp 1, 0x0202100A), (.octets .dstIp 2, 0x001400FF),
  (.octets .dstIp 3, 0x00000080)]

/-! ### Well-formedness: each check refuses an ill-formed term -/

theorem test_wf_refuses_halfword : (Access.read 16 0x004).wf = false := by decide
theorem test_wf_refuses_misaligned : (Access.write 32 0x002 0).wf = false := by decide
theorem test_wf_refuses_outside_window : (Access.read 32 0x400).wf = false := by decide
theorem test_wf_accepts_last_word : (Access.read 32 0x3FC).wf = true := by decide
theorem test_wf_event_refuses_byte : (HostEvent.access (.read 8 0x001)).wf = false := by decide
theorem test_wf_instr : Instr.encode.wf && Instr.csum.wf && Instr.build.wf && Instr.encodeBuild.wf := by
  decide

/-! ### Decoding: words written out from 30_encoding.md R71, R75 -/

theorem test_decode_encode : decode 0b00000000000000000000000000000001 = .ok .encode := rfl
theorem test_decode_csum : decode 0b00000000000000000000000000000010 = .ok .csum := rfl
theorem test_decode_build : decode 0b00000000000000000000000000000011 = .ok .build := rfl
theorem test_decode_encode_build : decode 0b00000000000000000000000000000100 = .ok .encodeBuild := rfl
/-- V32: bits 31:4 are ignored. -/
theorem test_decode_ignored_bits : decode 0xFFFFFFF1 = .ok .encode := rfl
theorem test_decode_zero_reserved : decode 0x00000000 = .error (.reservedOpcode 0) := rfl
theorem test_decode_five_reserved : decode 0x00000005 = .error (.reservedOpcode 5) := rfl
theorem test_encode_words : (encode .encode, encode .csum, encode .build, encode .encodeBuild) =
    ((1 : Word), (2 : Word), (3 : Word), (4 : Word)) := by decide
/-- The table's four rows, as a first instruction after reset. -/
theorem test_table_words : [1, 2, 3, 4].map (decodeTableWord 32) =
    [some .encode, some .csum, some .build, some .encodeBuild] := by decide
theorem test_first_instruction : step (State.reset.withFetchWord 32 3) =
    exec .build (State.reset.withFetchWord 32 3) := rfl
/-- R78. -/
theorem test_print : printCommand 0xFFFFFFF4 = "encode_build".toList ∧
    printCommand 0x0000000F = ".word 0x0000000F ; reserved".toList := by decide

/-! ### The commands -/

/-- V1, the source's worked example. -/
theorem test_encode_profile_a :
    (next? (exec .encode (wrote profileA [(.pixelXy, 0x0014000A), (.pixelRgba, 0xFF0080FF)]))).map
      (fun t => (words t .dstIp, statusWord t)) =
    some ([0x2602FA9B, 0x0202100A, 0x001400FF, 0x00000080], 0x02) := by decide

/-- V8 row c, and V7 row f for the warning. -/
theorem test_encode_profile_b_and_warning :
    (next? (exec .encode (wrote profileB [(.pixelXy, 0xFFFFFFFF), (.pixelRgba, 0x12345678)]))).map
      (fun t => (words t .dstIp, statusWord t)) =
    some ([0xFD001111, 0x22223333, 0xFFFFFFFF, 0x56341278], 0x02) ∧
    (next? (exec .encode (wrote profileA [(.pixelXy, 0x00001000), (.pixelSize, 1)]))).map
      (fun t => (words t .dstIp, statusWord t)) =
    some ([0x2602FA9B, 0x02023000, 0, 0], 0x0A) := by decide

/-- V14 (an odd length; the octets above PLEN take no part) and V16 (two fold steps). -/
theorem test_csum_odd_and_folds :
    (next? (exec .csum (wrote State.reset [(.plen, 3), (.octets .pbuf 0, 0x010203FF)]))).map (·.csum) =
      some 0xC0FB ∧
    (next? (exec .csum (wrote State.reset [(.plen, 4), (.octets .pbuf 0, 0xFFFF00C2)]))).map (·.csum) =
      some 0xFFFE := by decide

/-- V17 rows g and j. -/
theorem test_csum_addresses :
    (next? (exec .csum (wrote addressed [(.plen, 8), (.octets .pbuf 0, 0x80000000),
      (.octets .pbuf 1, 0x00690001)]))).map (·.csum) = some 0x5C1D ∧
    (next? (exec .csum (wrote addressed [(.plen, 8), (.octets .pbuf 0, 0x80001D5C),
      (.octets .pbuf 1, 0x00690001)]))).map (·.csum) = some 0x0000 := by decide

/-- V20. -/
theorem test_build_without_link :
    (next? (exec .build addressed)).map (fun t => (words t .fbuf, t.flen, t.csum)) =
    some ([0x60080AF4, 0x00083A40, 0x20010DB8, 0, 0, 1, 0x2602FA9B, 0x0202100A, 0x001400FF,
      0x00000080, 0x80001D5C, 0x00690001, 0, 0, 0, 0], 48, 0x5C1D) := by decide

/-- V25: the MACs of reset are placed; V20's checksum is not. -/
theorem test_build_with_link :
    (next? (exec .build (wrote State.reset [(.ctrl, 2)]))).map
      (fun t => (words t .fbuf, t.flen, t.csum)) =
    some ([0, 0, 0, 0x86DD6008, 0x0AF40008, 0x3A400000, 0, 0, 0, 0, 0, 0, 0, 0x00008000,
      0x7F530069, 0x00010000], 62, 0x537F) := by decide

/-- V21. -/
theorem test_encode_build :
    (next? (exec .encodeBuild (wrote profileA [(.ctrl, 2), (.octets .srcIp 0, 0x20010DB8),
      (.octets .srcIp 3, 1), (.octets .srcMac 0, 0x02000000), (.octets .srcMac 1, 0x00010000),
      (.octets .dstMac 0, 0x02000000), (.octets .dstMac 1, 0x00020000), (.pixelXy, 0x0014000A),
      (.pixelRgba, 0xFF0080FF)]))).map (fun t => (words t .fbuf, t.flen, t.csum)) =
    some ([0x02000000, 0x00020200, 0x00000001, 0x86DD6008, 0x0AF40008, 0x3A402001, 0x0DB80000, 0,
      0, 0x00012602, 0xFA9B0202, 0x100A0014, 0x00FF0000, 0x00808000, 0x1D5C0069, 0x00010000],
      62, 0x5C1D) := by decide

/-- V9, and V7 row i: the reference Decode. -/
theorem test_reference_decode :
    decodeAddress .a profileA.prefixes #v[0x26, 0x02, 0xfa, 0x9b, 0x02, 0x02, 0x00, 0x0a, 0x00, 0x14,
      0x00, 0xff, 0x00, 0x00, 0x00, 0x80] = none ∧
    decodeAddress .a profileA.prefixes #v[0x26, 0x02, 0xfa, 0x9b, 0x02, 0x02, 0x20, 0x05, 0, 0, 0, 0,
      0, 0, 0, 0] = some { x := 5, y := 0, r := 0, g := 0, b := 0, a := none, size := some .area2x2 } := by
  decide

/-- V18, the row of V12. -/
theorem test_big_endian_checksum :
    checksumBigEndian State.reset.srcIp State.reset.dstIp [0x00, 0xFF] = 0xFEC4 := by decide

/-! ### The host interface: V30 to V46 -/

/-- V30, V34, V37: a reserved opcode, the order of the checks, and the first error kept. -/
theorem test_reserved_opcode :
    statusWord (wrote State.reset [(.cmd, 0)]) = 0x14 ∧
    statusWord (wrote State.reset [(.plen, 0x41), (.cmd, 5)]) = 0x14 ∧
    statusWord (wrote State.reset [(.cmd, 0), (.plen, 0x41), (.cmd, 2)]) = 0x14 := by decide

/-- V33, and the accepted boundary value PLEN = 64. -/
theorem test_plen_range :
    statusWord (wrote State.reset [(.plen, 0x41), (.cmd, 2)]) = 0x34 ∧
    statusWord (wrote State.reset [(.plen, 0x40), (.cmd, 2)]) = 0x01 := by decide

/-- V35, V36, V39: host writes while a command is pending. -/
theorem test_writes_while_busy :
    statusWord (wrote (pendingState 2 1 []) [(.cmd, 3)]) = 0x25 ∧
    statusWord (wrote (pendingState 2 1 []) [(.octets .pbuf 0, 0x12345678)]) = 0x45 ∧
    wrote (pendingState 1 1 []) [(.csum, 0x1234)] = pendingState 1 1 [] ∧
    writeWord (pendingState 1 1 []) 0x024 5 = pendingState 1 1 [] := by decide

/-- V38. -/
theorem test_status_clearing :
    statusWord (wrote { State.reset with done := true, err := true, errcode := 1, xrange := true }
      [(.status, 2)]) = 0x1C ∧
    statusWord (wrote { State.reset with done := true, err := true, errcode := 1, xrange := true }
      [(.status, 0xF1)]) = 0x1E := by decide

/-- V41: reserved bits read 0. -/
theorem test_reserved_bits :
    readReg (wrote State.reset [(.ctrl, 0xFFFFFFFF)]) .ctrl = 3 ∧
    readReg (wrote State.reset [(.pixelSize, 0xFFFFFFFF)]) .pixelSize = 1 ∧
    readReg (wrote State.reset [(.plen, 0xFFFFFFFF)]) .plen = 0xFFFF ∧
    readReg (wrote State.reset [(.octets .srcMac 1, 0xAABBCCDD)]) (.octets .srcMac 1) = 0xAABB0000 := by
  decide

/-- V40: a bus error is a fault of the host, and its read value is 0. -/
theorem test_bus_error :
    step (idleWith [.access (.read 8 0x001)]) = .fault (.busError (.read 8 0x001)) ∧
    step (idleWith [.access (.write 32 0x002 0)]) = .fault (.busError (.write 32 0x002 0)) ∧
    busRead State.reset 8 0x018 = some 0 ∧ busRead State.reset 32 0x018 = some 0x000000FF ∧
    busRead State.reset 32 0x400 = none := ⟨rfl, rfl, by decide, by decide, by decide⟩

/-- V44: a read before the engine step gives the old value; R77: `wait` stays until its end. -/
theorem test_read_while_pending :
    (next? (step (pendingState 1 1 [rd (.octets .dstIp 0)]))).map (·.reads) = some [(0x050, 0)] ∧
    (next? (step (pendingState 1 1 [.wait]))).map (·.script) = some [.wait] := by decide

/-- V46. -/
theorem test_reset_while_busy :
    next? (step (pendingState 3 1 [.reset])) = some State.reset := by decide

/-- A reserved PENDING_OP, which no run reaches, is refused by name. -/
theorem test_reserved_pending_op :
    step (State.reset.withFetchWord 32 5) = .refused (.reservedPendingOp 5) := rfl

/-! ### The text of a host script (P1, P2) -/

theorem test_parse_wr : parseLine "wr SRC_IP0, 0x20010DB8 ; comment".toList =
    some [wr (.octets .srcIp 0) 0x20010DB8] := by decide
theorem test_parse_wbytes : parseLine "wbytes PBUF, 80 00 00 00 00 69 00 01".toList =
    some [wr (.octets .pbuf 0) 0x80000000, wr (.octets .pbuf 1) 0x00690001] := by decide
theorem test_parse_rbytes : parseLine "rbytes DST_IP, 16".toList =
    some [rd (.octets .dstIp 0), rd (.octets .dstIp 1), rd (.octets .dstIp 2),
      rd (.octets .dstIp 3)] := by decide
/-- `SRC_MAC2` names no register word (log 19); eight octets take the two words it has. -/
theorem test_parse_refuses : parseLine "fly".toList = none ∧
    parseLine "wbytes SRC_MAC, 01 02 03 04 05 06 07 08 09".toList = none ∧
    parseLine "rbytes SRC_MAC, 9".toList = none ∧
    parseLine "rbytes SRC_MAC, 8".toList =
      some [rd (.octets .srcMac 0), rd (.octets .srcMac 1)] := by decide
/-- The two words of SRC_MAC that P1 writes, read back newest first, as six octets. -/
theorem test_rbytes_result :
    rbytesResult [(0x064, 0x00010000), (0x060, 0x02000000), (0x004, 0x00000002)] 6 =
      [0x02, 0x00, 0x00, 0x00, 0x00, 0x01] := by decide

/-! ### Witnesses: states and operands that meet the hypotheses of the statements -/

theorem witness_DecodeEncodePrintParseAgree :
    decode 0xFFFFFFF1 = .ok .encode ∧ Instr.encodeBuild.wf = true ∧
    decode 0x12345675 = .error (.reservedOpcode 5) ∧ decode 0 = .error (.reservedOpcode 0) ∧
    decode 0xFFFFFFFF = .error (.reservedOpcode 0xF) := ⟨rfl, rfl, rfl, rfl, rfl⟩

theorem witness_ReservedOpcodesAreRejected :
    State.reset.busy = false ∧ (0x00000000 : Word).extractLsb' 0 4 ∉ [0x1#4, 0x2#4, 0x3#4, 0x4#4] ∧
    (0x00000005 : Word).extractLsb' 0 4 ∉ [0x1#4, 0x2#4, 0x3#4, 0x4#4] ∧
    (0xFFFFFFFF : Word).extractLsb' 0 4 ∉ [0x1#4, 0x2#4, 0x3#4, 0x4#4] := by decide

theorem witness_StepRunsThePendingCommand :
    ((pendingState 1 0 [.wait]).busy = true ∧ (pendingState 1 0 [.wait]).delay = 0 ∧
      pendingInstr (pendingState 1 0 [.wait]) = .ok .encode) ∧
    ((pendingState 4 7 []).busy = true ∧ (pendingState 4 7 []).script = [] ∧
      pendingInstr (pendingState 4 7 []) = .ok .encodeBuild) ∧
    decodeTableWord 32 2 = some .csum ∧ decodeTableWord 32 0xFFFFFFF3 = some .build :=
  ⟨⟨rfl, rfl, rfl⟩, ⟨rfl, rfl, rfl⟩, rfl, rfl⟩

theorem witness_EncodeUnderProfileA :
    (wrote State.reset [(.pixelXy, 0x0FFF)]).profile = .a ∧
    (wrote State.reset [(.pixelXy, 0x1000), (.pixelSize, 1)]).profile = .a := by decide

theorem witness_EncodeUnderProfileB : profileB.profile = .b := by decide

theorem witness_XrangeIsAStickyWarning :
    (∃ t, step { idleWith [wr .status 8] with xrange := true } = .next t ∧ t.xrange = false) ∧
    (∃ t, step { idleWith [.reset] with xrange := true } = .next t ∧ t.xrange = false) :=
  ⟨⟨_, rfl, by decide⟩, ⟨_, rfl, by decide⟩⟩

theorem witness_EncodeWarnsExactlyWhenDecodeFails :
    (wrote profileA [(.pixelXy, 0x0FFF)]).profile = .a ∧
    (wrote profileA [(.pixelXy, 0x0FFF)]).xrange = false ∧
    (wrote profileA [(.pixelXy, 0x1000)]).profile = .a ∧
    (wrote profileA [(.pixelXy, 0x1000)]).xrange = false := by decide

theorem witness_ProfileBRoundTrip :
    profileB.prefixes ≠ (wrote profileB [(.octets .prefixes 1, 0x22223334)]).prefixes := by decide

/-- `profileA` with other values where ENCODE under Profile A does not look: prefix octets 6 and 7, and
the alpha channel; and with another MAC, which BUILD does not read without a link header. -/
def profileAUnread : State :=
  { profileA with
    prefixes := writeOctets profileA.prefixes 1 0x0202ABCD
    pixelRgba := 0
    srcMac := Vector.replicate 6 1 }

theorem witness_CommandsReadOnlyTheirOperands :
    profileA.profile = profileAUnread.profile ∧
    (∀ k, k < (if profileA.profile = .a then 6 else 8) →
      oct profileA.prefixes k = oct profileAUnread.prefixes k) ∧
    profileA.pixelXy = profileAUnread.pixelXy ∧
    (profileA.profile = .a → profileA.pixelSize = profileAUnread.pixelSize) ∧
    (∀ k, (if profileA.profile = .a then 8 else 0) ≤ k →
      profileA.pixelRgba.getLsbD k = profileAUnread.pixelRgba.getLsbD k) ∧
    profileA.linkEn = profileAUnread.linkEn ∧
    (profileA.linkEn = true →
      profileA.srcMac = profileAUnread.srcMac ∧ profileA.dstMac = profileAUnread.dstMac) ∧
    profileA.srcIp = profileAUnread.srcIp ∧ profileA.dstIp = profileAUnread.dstIp ∧
    profileA.prefixes ≠ profileAUnread.prefixes ∧ profileA.srcMac ≠ profileAUnread.srcMac := by
  have h1 : profileA.profile = .a := by decide
  have h2 : profileA.pixelRgba = 0xFF := by decide
  refine ⟨rfl, ?_, rfl, fun _ => rfl, ?_, rfl, ?_, rfl, rfl, by decide, by decide⟩
  · rw [h1]
    decide
  · rw [h1, h2]
    intro k hk
    rw [if_pos rfl] at hk
    show (0xFF : Word).getLsbD k = (0 : Word).getLsbD k
    by_cases h : k < 32
    · interval_cases k <;> rfl
    · rw [BitVec.getLsbD_of_ge _ _ (by omega), BitVec.getLsbD_of_ge _ _ (by omega)]
  · intro h
    exact absurd h (by decide)

/-- Under Profile B: the size is not read. -/
theorem witness_CommandsReadOnlyTheirOperands_profile_b :
    profileB.profile = .b ∧ profileB.pixelSize ≠ (wrote profileB [(.pixelSize, 1)]).pixelSize ∧
    (wrote profileB [(.pixelSize, 1)]).profile = .b := by decide

/-- For CSUM, whose last octet read is 62 with PLEN = 63, and with PLEN at its bound. -/
theorem witness_CommandsReadOnlyTheirOperands_csum :
    State.reset.pbuf ≠ writeOctets State.reset.pbuf 15 0x000000FF ∧
    ({ State.reset with plen := 63 } : State).plen.toNat ≤ 64 ∧
    (∀ k < 63, oct State.reset.pbuf k = oct (writeOctets State.reset.pbuf 15 0x000000FF) k) ∧
    ({ State.reset with plen := 64 } : State).plen.toNat ≤ 64 := by decide

theorem witness_PseudoHeaderLayout :
    (List.replicate 65535 (0xFF : Byte)).length ≤ 65535 ∧ ([] : List Byte).length ≤ 65535 := by
  rw [List.length_replicate]
  exact ⟨le_refl _, Nat.zero_le _⟩

theorem witness_FoldRepeatsUntilNoCarry : (0xFFFF : Nat) ≤ 0xFFFF ∧ (0xFFFF : Nat) < 0x10000 := by
  decide

theorem witness_AccumulatorOf32BitsSuffices :
    (List.replicate 65535 (0xFF : Byte)).length ≤ 65535 ∧
    (List.replicate 64 (0xFF : Byte)).length ≤ 64 := by
  rw [List.length_replicate, List.length_replicate]
  exact ⟨le_refl _, le_refl _⟩

theorem witness_CsumOfTheRegisters :
    (wrote State.reset [(.plen, 64)]).plen.toNat ≤ 64 ∧ State.reset.plen.toNat ≤ 64 := by decide

theorem witness_CsumCommand :
    (wrote State.reset [(.plen, 64)]).plen.toNat ≤ 64 ∧
    64 < (wrote State.reset [(.plen, 65)]).plen.toNat ∧
    (0xFFFFFFF2 : Word).extractLsb' 0 4 = 0x2 := by decide

theorem witness_ChecksumSelfConsistency : ([0x80, 0x00] : List Byte).length % 2 = 0 := by decide

theorem witness_WireEquivalenceWithBigEndian :
    (List.replicate 65535 (0xFF : Byte)).length ≤ 65535 ∧ ([] : List Byte).length ≤ 65535 := by
  rw [List.length_replicate]
  exact ⟨le_refl _, Nat.zero_le _⟩

theorem witness_BuildWritesTheFrame :
    (wrote State.reset [(.ctrl, 2)]).linkEn = true ∧ State.reset.linkEn = false := by decide

theorem witness_BuiltFrameVerifies :
    ∃ t, exec .build addressed = .next t ∧
      addressed.srcIp.toList = octetRange t.fbuf 8 24 ∧
      addressed.dstIp.toList = octetRange t.fbuf 24 40 := ⟨_, rfl, by decide, by decide⟩

/-- For ENCODE_BUILD the address in the frame is the new one. -/
theorem witness_BuiltFrameVerifies_encodeBuild :
    ∃ t, exec .encodeBuild addressed = .next t ∧
      addressed.srcIp.toList = octetRange t.fbuf 8 24 ∧
      (encodeBody addressed).dstIp.toList = octetRange t.fbuf 24 40 :=
  ⟨_, rfl, by decide, by decide⟩

/-- Both ends of every reserved range, and the word before and after it. -/
theorem witness_RegisterMap :
    [0x024, 0x02C, 0x038, 0x03C, 0x070, 0x0FC, 0x140, 0x1FC, 0x240, 0x3FC].map regAt =
      List.replicate 10 none ∧
    [0x020, 0x030, 0x034, 0x040, 0x06C, 0x100, 0x13C, 0x200, 0x23C].map (fun o => (regAt o).isSome) =
      List.replicate 9 true := by decide

theorem witness_WrittenRegisterReadsBack :
    regAt 0x024 = none ∧ State.reset.busy = false ∧ readOnly (.octets .dstMac 1) = false ∧
    Reg.octets .dstMac 1 ≠ .status ∧ Reg.octets .dstMac 1 ≠ .cmd ∧
    Reg.octets .dstMac 0 ≠ Reg.octets .dstMac 1 := by decide

theorem witness_ArrayWriteSetsFourOctets :
    State.reset.busy = false ∧ OctetArray.pbuf ≠ .fbuf ∧ 63 < OctetArray.pbuf.length ∧
    63 = 4 * (15 : Fin OctetArray.pbuf.words).val + 3 ∧
    5 < OctetArray.srcMac.length ∧ 5 = 4 * (1 : Fin OctetArray.srcMac.words).val + 1 := by decide

theorem witness_WritesWhileBusy :
    (pendingState 2 1 []).busy = true ∧ readOnly .plen = false ∧ Reg.plen ≠ .status ∧
    Reg.plen ≠ .cmd ∧ (∀ r, regAt 0x01C = some r → readOnly r = true) ∧
    (∀ r, regAt 0x24 = some r → readOnly r = true) := by
  refine ⟨rfl, rfl, by decide, by decide, fun r h => ?_, fun r h => ?_⟩
  · cases h
    rfl
  · cases h

/-- One state and word for each clause: busy, reserved, CSUM out of range, and accepted with PLEN at
its bound and with PLEN above it where it does not matter. -/
theorem witness_IssueChecksInOrder :
    (pendingState 2 1 []).busy = true ∧ State.reset.busy = false ∧
    (0xF : Word).extractLsb' 0 4 ∉ [0x1#4, 0x2#4, 0x3#4, 0x4#4] ∧
    ((2 : Word).extractLsb' 0 4 = 0x2 ∧ 64 < (wrote State.reset [(.plen, 65)]).plen.toNat) ∧
    (wrote State.reset [(.plen, 64)]).plen.toNat ≤ 64 ∧
    (wrote State.reset [(.plen, 65)]).busy = false ∧
    ((3 : Word).extractLsb' 0 4 ∈ [0x1#4, 0x2#4, 0x3#4, 0x4#4] ∧
      ¬ (3 : Word).extractLsb' 0 4 = 0x2) := by decide

theorem witness_FirstRejectionIsKept :
    State.reset.err = false ∧ (reject State.reset .plenRange).err = true := by decide

theorem witness_StatusClearing :
    (∃ t, step { idleWith [wr .status 4] with err := true, errcode := 2 } = .next t ∧ t.err = false) ∧
    (∃ t, step { idleWith [.reset] with err := true, errcode := 2 } = .next t ∧ t.errcode ≠ 2) ∧
    (∃ t, step { idleWith [wr .status 8] with xrange := true } = .next t ∧ t.xrange = false) :=
  ⟨⟨_, rfl, by decide⟩, ⟨_, rfl, by decide⟩, ⟨_, rfl, by decide⟩⟩

/-- BUSY, DONE, ERR and XRANGE each rise in some step. -/
theorem witness_StatusBitsRiseOnlyForTheirEvent :
    (∃ t, step (idleWith [command .build]) = .next t ∧ t.busy = true) ∧
    (∃ t, step (pendingState 3 0 []) = .next t ∧ t.done = true) ∧
    (∃ t, step (idleWith [wr .cmd 0]) = .next t ∧ t.err = true) ∧
    (∃ t, step { pendingState 4 0 [] with pixelXy := 0x1000 } = .next t ∧ t.xrange = true) :=
  ⟨⟨_, rfl, by decide⟩, ⟨_, rfl, by decide⟩, ⟨_, rfl, by decide⟩, ⟨_, rfl, by decide⟩⟩

theorem witness_ReadsChangeNothing :
    (idleWith [rd .status]).script = .access (.read 32 0x004) :: [] ∧
    (pendingState 1 1 [.access (.read 32 0x3FC)]).script = .access (.read 32 0x3FC) :: [] ∧
    0x3FC % 4 = 0 ∧ 0x3FC < 0x400 ∧
    ((pendingState 1 1 [rd .status]).busy = true → 0 < (pendingState 1 1 [rd .status]).delay) := by
  decide

theorem witness_WriteStepIsTheDispatch :
    (pendingState 1 1 [.access (.write 32 0x3FC 5)]).script = .access (.write 32 0x3FC 5) :: [] ∧
    0x3FC % 4 = 0 ∧ 0x3FC < 0x400 ∧
    ((pendingState 1 1 [.access (.write 32 0x3FC 5)]).busy = true →
      0 < (pendingState 1 1 [.access (.write 32 0x3FC 5)]).delay) := by decide

theorem witness_RepeatedWriteIsIdempotent : (0x004 : Nat) ≠ 0x008 := by decide

/-- A byte read at the window's last octet, a halfword, and a misaligned word. -/
theorem witness_BusErrorFaultsTheHost :
    ((idleWith [.access (.read 8 0x3FF)]).script = .access (.read 8 0x3FF) :: [] ∧
      (idleWith [.access (.read 8 0x3FF)]).busy = false ∧ (Access.read 8 0x3FF).offset < 0x400 ∧
      (Access.read 8 0x3FF).width ≠ 32) ∧
    ((Access.write 32 0x001 0).offset < 0x400 ∧ (Access.write 32 0x001 0).offset % 4 ≠ 0) ∧
    (0x3FF < 0x400 ∧ 0x3FF % 4 ≠ 0) ∧ (0x3FC < 0x400 ∧ 0x3FC % 4 = 0) ∧ 0x400 ≤ 0x400 := by decide

theorem witness_OutsideTheWindowIsRefused :
    (idleWith [.access (.read 32 0x400)]).script = .access (.read 32 0x400) :: [] ∧
    (idleWith [.access (.read 32 0x400)]).busy = false ∧ 0x400 ≤ (Access.read 32 0x400).offset := by
  decide

theorem witness_ResetValues :
    (pendingState 3 1 [rd .status]).script = rd .status :: [] := by decide

theorem witness_ResetAbandonsThePendingCommand :
    (pendingState 3 1 [.reset]).script = .reset :: [] ∧ (pendingState 3 1 [.reset]).busy = true ∧
    0 < (pendingState 3 1 [.reset]).delay := by decide

/-- CSUM pending with the largest PLEN it is accepted with. -/
def legalPending (delay : Nat) (script : List HostEvent) : State :=
  { pendingState 2 delay script with plen := 64 }

theorem legalPending_legal (delay : Nat) (script : List HostEvent) : Legal (legalPending delay script) :=
  { errcode := ⟨fun _ => rfl, fun h => Bool.noConfusion h⟩
    pending := fun _ => ⟨rfl, .csum, rfl, fun _ => by show (64 : Half).toNat ≤ 64; decide⟩
    frame := .inl ⟨rfl, rfl⟩
    csum := by show (0 : Half) ≠ 0xFFFF; decide }

theorem witness_StepKeepsLegal :
    (Legal (legalPending 0 []) ∧ ∃ t, step (legalPending 0 []) = .next t) ∧
    (Legal (legalPending 1 [wr .plen 65]) ∧ ∃ t, step (legalPending 1 [wr .plen 65]) = .next t) :=
  ⟨⟨legalPending_legal _ _, _, rfl⟩, ⟨legalPending_legal _ _, _, rfl⟩⟩

theorem witness_OperandsAreFrozenWhileBusy :
    (legalPending 1 [wr .plen 65]).busy = true ∧
    turn (legalPending 1 [wr .plen 65]) = .host (wr .plen 65) [] ∧ wr .plen 65 ≠ .reset ∧
    ∃ t, step (legalPending 1 [wr .plen 65]) = .next t := ⟨rfl, rfl, by decide, _, rfl⟩

/-- FBUF, CSUM and DST_IP each change in some step. -/
theorem witness_ResultsChangeOnlyByTheirCommand :
    (∃ t, step (pendingState 3 0 []) = .next t ∧ t.fbuf ≠ State.reset.fbuf ∧ t.flen ≠ 0) ∧
    (∃ t, step (pendingState 2 0 []) = .next t ∧ t.csum = 0xC5FF ∧ State.reset.csum = 0) ∧
    (∃ t, step (pendingState 1 0 []) = .next t ∧ t.dstIp ≠ State.reset.dstIp) ∧
    (∃ t, step (idleWith [wr (.octets .dstIp 3) 1]) = .next t ∧ t.dstIp ≠ State.reset.dstIp) ∧
    ∀ rest, (pendingState 3 0 []).script ≠ .reset :: rest :=
  ⟨⟨_, rfl, by decide, by decide⟩, ⟨_, rfl, by decide, rfl⟩, ⟨_, rfl, by decide⟩, ⟨_, rfl, by decide⟩,
    fun _ h => by cases h⟩

theorem witness_PendingCommandCompletesUnchanged :
    (pendingState 1 2 [wr .plen 65, .waitdone]).busy = true ∧
    pendingInstr (pendingState 1 2 [wr .plen 65, .waitdone]) = .ok .encode ∧
    quietScript (pendingState 1 2 [wr .plen 65, .waitdone]).script := by
  refine ⟨rfl, rfl, fun e he => ?_⟩
  rcases List.mem_cons.1 he with rfl | he
  · decide
  · rcases List.mem_cons.1 he with rfl | he
    · decide
    · cases he

theorem witness_CommandThenWaitdoneDelivers :
    (wrote (idleWith [command .csum, .waitdone]) [(.plen, 64)]).busy = false ∧
    (wrote (idleWith [command .csum, .waitdone]) [(.plen, 64)]).plen.toNat ≤ 64 ∧
    (wrote (idleWith [command .csum, .waitdone]) [(.plen, 64)]).script =
      command .csum :: .waitdone :: [] := by decide

/-- For each of the other commands, PLEN is free: 65 here. -/
theorem witness_CommandThenWaitdoneDelivers_others :
    ∀ i ∈ [Instr.encode, .build, .encodeBuild],
      (wrote (idleWith [command i, .waitdone]) [(.plen, 65)]).busy = false ∧
      (i = .csum → (wrote (idleWith [command i, .waitdone]) [(.plen, 65)]).plen.toNat ≤ 64) ∧
      (wrote (idleWith [command i, .waitdone]) [(.plen, 65)]).script =
        command i :: .waitdone :: [] := by decide

theorem witness_WaitdoneWithoutACommandNeverEnds :
    (idleWith [.waitdone]).busy = false ∧ (idleWith [.waitdone]).done = false ∧
    (idleWith [.waitdone]).script = .waitdone :: [] := by decide

theorem witness_WaitEnds :
    (Legal (legalPending 5 [.wait]) ∧ (legalPending 5 [.wait]).busy = true ∧
      (legalPending 5 [.wait]).script = .wait :: []) ∧
    ((reject (legalPending 1 [.wait]) .cmdBusy).err = true ∧
      (reject (legalPending 1 [.wait]) .cmdBusy).script = .wait :: [] ∧
      0 < (reject (legalPending 1 [.wait]) .cmdBusy).delay) :=
  ⟨⟨legalPending_legal _ _, rfl, rfl⟩, rfl, rfl, by decide⟩

/-- One octet, and as many octets as the two words of SRC_MAC hold, two more than it has. -/
theorem witness_WbytesSetsTheOctets :
    ((idleWith (wbytes .srcMac [1, 2, 3, 4, 5, 6, 7, 8] ++ [clear])).busy = false ∧
      OctetArray.srcMac ≠ .fbuf ∧
      ([1, 2, 3, 4, 5, 6, 7, 8] : List Byte).length ≤ 4 * OctetArray.srcMac.words ∧
      (idleWith (wbytes .srcMac [1, 2, 3, 4, 5, 6, 7, 8] ++ [clear])).script =
        wbytes .srcMac [1, 2, 3, 4, 5, 6, 7, 8] ++ [clear]) ∧
    ([1] : List Byte).length ≤ 4 * OctetArray.pbuf.words := by decide

/-- On an idle block, and while a command is pending with just its sixteen reads owed before it. -/
theorem witness_RbytesGivesTheOctets :
    (8 ≤ 4 * OctetArray.srcMac.words ∧ (idleWith (rbytes .srcMac 8)).busy = false ∧
      (idleWith (rbytes .srcMac 8)).script = rbytes .srcMac 8 ++ []) ∧
    (62 ≤ 4 * OctetArray.fbuf.words ∧
      (pendingState 3 16 (rbytes .fbuf 62)).busy = true ∧
      (62 + 3) / 4 ≤ (pendingState 3 16 (rbytes .fbuf 62)).delay ∧
      (pendingState 3 16 (rbytes .fbuf 62)).script = rbytes .fbuf 62 ++ []) := by decide

theorem witness_IdleBlockKeepsItsState :
    State.reset.script = [] ∧ State.reset.busy = false := by decide

theorem idleWith_reset_runEnded : runEnded (idleWith [.reset]) :=
  ⟨fun e he => by simpa [idleWith] using he, rfl⟩

/-- A reset still to come, with the run ended; and the engine step, or a reset before it, still owed. -/
theorem witness_EndedRunStaysEnded :
    runEnded (idleWith [.reset]) ∧
    ((pendingState 3 0 []).busy = true ∧ pendingInstr (pendingState 3 0 []) = .ok .build ∧
      hostDone (pendingState 3 0 [])) ∧
    ((pendingState 3 1 [.reset]).busy = true ∧
      pendingInstr (pendingState 3 1 [.reset]) = .ok .build ∧ hostDone (pendingState 3 1 [.reset])) :=
  ⟨idleWith_reset_runEnded, ⟨rfl, rfl, fun e he => by cases he⟩,
    ⟨rfl, rfl, fun e he => by simpa [pendingState] using he⟩⟩

end Sys2Proof.Machine.Tests
end

/-!
PROOFS. The statements of 20_memory.md: the register map (R52), reserved offsets and bits and the
read-back of a written register (R53), the reading (R54) and the writing (R55) of octet arrays.
-/

namespace Sys2Proof.Machine

/-! ### The register map: `regAt` is the inverse of `regOffset` (R52) -/

theorem arrayBase_mod_four (arr : OctetArray) : arrayBase arr % 4 = 0 := by cases arr <;> rfl

/-- No two register words share an offset: the map finds each one at its own. -/
@[simp] theorem regAt_regOffset (r : Reg) : regAt (regOffset r) = some r := by
  cases r with
  | octets arr j =>
    revert j
    cases arr <;> decide
  | _ => rfl

theorem regOffset_of_scalarAt {off : Nat} {r : Reg} (h : scalarAt off = some r) :
    off = regOffset r := by
  unfold scalarAt at h
  split_ifs at h <;> cases h <;> assumption

theorem regOffset_of_arrayWordAt {arr : OctetArray} {off : Nat} {r : Reg} (hoff : off % 4 = 0)
    (h : arrayWordAt arr off = some r) : off = regOffset r := by
  obtain ⟨j, rfl, hj⟩ := (arrayWordAt_iff arr off hoff r).1 h
  exact hj

theorem regAt_eq_some_iff {off : Nat} {r : Reg} : regAt off = some r ↔ off = regOffset r := by
  constructor
  · intro h
    unfold regAt at h
    split at h
    case isTrue hoff =>
      simp only [Option.or_eq_some_iff] at h
      rcases h with h | ⟨-, h | ⟨-, h | ⟨-, h | ⟨-, h | ⟨-, h | ⟨-, h | ⟨-, h⟩⟩⟩⟩⟩⟩⟩
      · exact regOffset_of_scalarAt h
      all_goals exact regOffset_of_arrayWordAt hoff h
    case isFalse => cases h
  · rintro rfl
    exact regAt_regOffset r

theorem scalarAt_eq_none_iff {off : Nat} (hoff : off % 4 = 0) :
    scalarAt off = none ↔ 0x024 ≤ off := by
  unfold scalarAt
  split_ifs <;> simp <;> omega

theorem arrayWordAt_eq_none_iff (arr : OctetArray) {off : Nat} (hoff : off % 4 = 0) :
    arrayWordAt arr off = none ↔ off < arrayBase arr ∨ arrayBase arr + 4 * arr.words ≤ off := by
  have hbase := arrayBase_mod_four arr
  unfold arrayWordAt
  split_ifs <;> simp <;> omega

/-- The word offsets without a register: those past the scalars and outside every array. -/
theorem regAt_eq_none_iff {off : Nat} (hoff : off % 4 = 0) :
    regAt off = none ↔
      0x024 ≤ off ∧ ∀ arr, off < arrayBase arr ∨ arrayBase arr + 4 * arr.words ≤ off := by
  have harr : (∀ arr, arrayWordAt arr off = none) ↔
      ∀ arr, off < arrayBase arr ∨ arrayBase arr + 4 * arr.words ≤ off :=
    forall_congr' fun arr => arrayWordAt_eq_none_iff arr hoff
  rw [← scalarAt_eq_none_iff hoff, ← harr, regAt, if_pos hoff]
  simp only [Option.or_eq_none_iff]
  constructor
  · rintro ⟨hs, h0, h1, h2, h3, h4, h5, h6⟩
    refine ⟨hs, fun arr => ?_⟩
    cases arr <;> assumption
  · rintro ⟨hs, h⟩
    exact ⟨hs, h _, h _, h _, h _, h _, h _, h _⟩

theorem readOnly_iff (r : Reg) :
    readOnly r = true ↔ r = .csum ∨ r = .flen ∨ ∃ j, r = .octets .fbuf j := by
  cases r with
  | octets arr j => cases arr <;> simp [readOnly]
  | _ => simp [readOnly]

/-- Settles O26: `regAt` inverts `regOffset`, and a word offset without a register lies in a gap
between the table's ranges. -/
theorem registerMap : Obligations.RegisterMap := by
  refine ⟨fun off r => ?_, readOnly_iff, fun _ => rfl, fun off hoff hlt => ?_⟩
  · rw [regAt_eq_some_iff]
    cases r with
    | octets arr j => cases arr <;> rfl
    | _ => rfl
  · rw [regAt_eq_none_iff hoff]
    constructor
    · rintro ⟨hs, h⟩
      have hprefixes := h .prefixes
      have hsrcIp := h .srcIp
      have hdstIp := h .dstIp
      have hsrcMac := h .srcMac
      have hdstMac := h .dstMac
      have hpbuf := h .pbuf
      have hfbuf := h .fbuf
      simp only [arrayBase, OctetArray.words] at *
      omega
    · intro h
      refine ⟨by omega, fun arr => ?_⟩
      cases arr <;> simp only [arrayBase, OctetArray.words] <;> omega

/-! ### Reading and writing at a register's own offset -/

@[simp] theorem readWord_regOffset (s : State) (r : Reg) :
    readWord s (regOffset r) = readReg s r := by
  rw [readWord, regAt_regOffset]

theorem writeWord_regOffset {s : State} {r : Reg} (v : Word) (hbusy : s.busy = false)
    (hro : readOnly r = false) (hstatus : r ≠ .status) (hcmd : r ≠ .cmd) :
    writeWord s (regOffset r) v = writeReg s r v := by
  have hat := regAt_regOffset r
  rcases writeWord_cases s (regOffset r) v with
    ⟨-, h⟩ | ⟨h, -⟩ | ⟨h, -⟩ | ⟨h, -⟩ | ⟨-, r', h, -, -, -, hw⟩
  · simp [h r hat] at hro
  · exact absurd (Option.some.inj (hat.symm.trans h)) hstatus
  · exact absurd (Option.some.inj (hat.symm.trans h)) hcmd
  · simp [h] at hbusy
  · rw [hw, Option.some.inj (hat.symm.trans h)]

theorem readOnly_octets {arr : OctetArray} (h : arr ≠ .fbuf) (j : Fin arr.words) :
    readOnly (.octets arr j) = false := by
  cases arr <;> first | rfl | exact absurd rfl h

/-! ### Words of an octet array (R54, R55) -/

theorem wordOf_eq_append (o0 o1 o2 o3 : Byte) : wordOf o0 o1 o2 o3 = half o0 o1 ++ half o2 o3 := by
  apply BitVec.eq_of_toNat_eq
  rw [wordOf_toNat, BitVec.toNat_append, Nat.shiftLeft_eq, Nat.mul_comm _ (2 ^ 16),
    ← Nat.two_pow_add_eq_or_of_lt (half o2 o3).isLt, half_toNat, half_toNat]
  omega

theorem segment_eq_oct (A : Octets 16) (i : Fin 8) :
    segment A i = half (oct A (2 * i)) (oct A (2 * i + 1)) := by
  rw [oct_of_lt A (by omega), oct_of_lt A (by omega)]
  rfl

/-- Word `j` of an address is its segments `2j` and `2j+1`. -/
theorem readOctets_eq_segments (A : Octets 16) (j : Fin 4) :
    readOctets A j =
      segment A ⟨2 * j, by omega⟩ ++ segment A ⟨2 * j + 1, by omega⟩ := by
  have hoffset : 4 * j.val = 2 * (2 * j.val) := by omega
  rw [readOctets, wordOf_eq_append, hoffset, segment_eq_oct, segment_eq_oct]
  rfl

/-- Settles O28: a word of an array is `wordOf` of its four octets. -/
theorem arrayWordsReadBigEndian : Obligations.ArrayWordsReadBigEndian :=
  ⟨fun _ _ _ => wordOf_toNat _ _ _ _, fun s j => readOctets_eq_segments s.dstIp j⟩

theorem getElem_writeOctets {n : Nat} (F : Octets n) (j : Nat) (v : Word) {k : Nat} (h : k < n) :
    (writeOctets F j v)[k] = if k / 4 = j then byteOf v (k % 4) else F[k] := by
  rw [← oct_of_lt _ h, ← oct_of_lt F h, oct_writeOctets]
  simp only [h, true_and]

/-- Settles O29: the write is `setArray` of `writeOctets`, whose octets `getElem_writeOctets` gives. -/
theorem arrayWriteSetsFourOctets : Obligations.ArrayWriteSetsFourOctets := by
  intro s arr j v hbusy hfbuf
  refine ⟨writeOctets (getArray s arr) j v, ?_, fun k hk => ?_⟩
  · rw [← writeReg_octets s arr hfbuf]
    exact writeWord_regOffset v hbusy (readOnly_octets hfbuf j) nofun nofun
  · rw [getElem_writeOctets _ _ _ hk]
    by_cases hword : k / 4 = j.val
    · rw [if_pos hword]
      split_ifs
      · rw [show k % 4 = 0 by omega]; rfl
      · rw [show k % 4 = 1 by omega]; rfl
      · rw [show k % 4 = 2 by omega]; rfl
      · rw [show k % 4 = 3 by omega]; rfl
      · omega
    · rw [if_neg hword, if_neg (by omega), if_neg (by omega), if_neg (by omega), if_neg (by omega)]

/-! ### Bits of a word below and above a position -/

theorem and_shiftLeft_allOnes_of_lt {w : Word} {k : Nat} (h : w.toNat < 2 ^ k) :
    w &&& (BitVec.allOnes 32 <<< k) = 0 := by
  ext i hi
  by_cases hik : i < k
  · simp [hik]
  · have hbit : w.toNat.testBit i = false :=
      Nat.testBit_eq_false_of_lt (h.trans_le (Nat.pow_le_pow_right (by decide) (by omega)))
    simp [BitVec.getElem_eq_testBit_toNat, hbit]

/-! ### Reserved bits (R53) -/

theorem bit_toNat_lt (b : Bool) : (bit b).toNat < 2 := by cases b <;> decide

theorem ctrl_toNat_lt (s : State) : (readReg s .ctrl).toNat < 2 ^ 2 := by
  rw [readReg]
  cases profileBit s.profile <;> cases s.linkEn <;> decide

theorem statusWord_toNat_lt (s : State) : (statusWord s).toNat < 2 ^ 8 := by
  have hcode : (s.errcode.zeroExtend 32 <<< 4).toNat < 2 ^ 8 := by
    have := s.errcode.isLt
    simp [Nat.shiftLeft_eq]
    omega
  have hflags : (bit s.busy ||| (bit s.done <<< 1) ||| (bit s.err <<< 2) |||
      (bit s.xrange <<< 3)).toNat < 2 ^ 8 := by
    cases s.busy <;> cases s.done <;> cases s.err <;> cases s.xrange <;> decide
  rw [statusWord, BitVec.toNat_or]
  exact Nat.or_lt_two_pow hflags hcode

theorem zeroExtend_half_toNat_lt (h : Half) : (h.zeroExtend 32).toNat < 2 ^ 16 := by
  have := h.isLt
  simp
  omega

/-- The reserved bits of a register word: those no field and no octet of it stands in (R53). -/
def reservedBits : Reg → Word
  | .ctrl => 0xFFFFFFFC
  | .status => 0xFFFFFF00
  | .cmd => 0xFFFFFFFF
  | .plen => 0xFFFF0000
  | .pixelSize => 0xFFFFFFFE
  | .csum => 0xFFFF0000
  | .flen => 0xFFFF0000
  | .octets .srcMac 1 => 0x0000FFFF
  | .octets .dstMac 1 => 0x0000FFFF
  | _ => 0x00000000

/-- Every word of an array is whole, but for word 1 of a MAC, whose lower half lies past the end. -/
theorem reservedBits_octets (arr : OctetArray) (j : Fin arr.words) :
    (4 * j.val + 4 ≤ arr.length ∧ reservedBits (.octets arr j) = 0) ∨
      (arr.length = 4 * j.val + 2 ∧ reservedBits (.octets arr j) = 0x0000FFFF) := by
  revert j
  cases arr <;> decide

/-- A word whose last two octets lie past the array's end. -/
theorem readOctets_half {n : Nat} (F : Octets n) {j : Nat} (h : n = 4 * j + 2) :
    readOctets F j = half (oct F (4 * j)) (oct F (4 * j + 1)) ++ (0 : Half) := by
  rw [readOctets, wordOf_eq_append, oct_past F (by omega : n ≤ 4 * j + 2),
    oct_past F (by omega : n ≤ 4 * j + 3)]
  rfl

theorem append_and_lowHalf (hi lo : Half) :
    (hi ++ lo) &&& (0x0000FFFF : Word) = (0 : Half) ++ lo := by
  rw [show (0x0000FFFF : Word) = (0 : Half) ++ BitVec.allOnes 16 from rfl, BitVec.and_append,
    BitVec.and_allOnes]
  exact congrArg (· ++ lo) BitVec.and_zero

theorem append_and_highHalf (hi lo : Half) :
    (hi ++ lo) &&& ~~~(0x0000FFFF : Word) = hi ++ (0 : Half) := by
  rw [show ~~~(0x0000FFFF : Word) = BitVec.allOnes 16 ++ (0 : Half) from rfl, BitVec.and_append,
    BitVec.and_allOnes]
  exact congrArg (hi ++ ·) BitVec.and_zero

theorem readReg_and_reservedBits (s : State) (r : Reg) : readReg s r &&& reservedBits r = 0 := by
  cases r with
  | ctrl => exact and_shiftLeft_allOnes_of_lt (ctrl_toNat_lt s)
  | status => exact and_shiftLeft_allOnes_of_lt (statusWord_toNat_lt s)
  | pixelSize => exact and_shiftLeft_allOnes_of_lt (k := 1) (bit_toNat_lt (sizeBit s.pixelSize))
  | plen => exact and_shiftLeft_allOnes_of_lt (zeroExtend_half_toNat_lt s.plen)
  | csum => exact and_shiftLeft_allOnes_of_lt (zeroExtend_half_toNat_lt s.csum)
  | flen => exact and_shiftLeft_allOnes_of_lt (zeroExtend_half_toNat_lt s.flen)
  | cmd => exact BitVec.zero_and
  | pixelXy => exact BitVec.and_zero
  | pixelRgba => exact BitVec.and_zero
  | octets arr j =>
    rcases reservedBits_octets arr j with ⟨-, hbits⟩ | ⟨hlen, hbits⟩
    · rw [hbits]
      exact BitVec.and_zero
    · rw [hbits, readReg, readOctets_half _ hlen, append_and_lowHalf]
      rfl

/-! ### A written register reads back (R53) -/

theorem readOctets_eq {n : Nat} (F : Octets n) (j : Nat) :
    readOctets F j =
      wordOf (oct F (4 * j + 0)) (oct F (4 * j + 1)) (oct F (4 * j + 2)) (oct F (4 * j + 3)) := rfl

theorem oct_writeOctets_same {n : Nat} (F : Octets n) {j i : Nat} (hi : i < 4)
    (h : 4 * j + i < n) (v : Word) : oct (writeOctets F j v) (4 * j + i) = byteOf v i := by
  rw [oct_writeOctets, if_pos (by omega), Nat.mul_add_mod, Nat.mod_eq_of_lt hi]

theorem oct_writeOctets_of_ne {n : Nat} (F : Octets n) {j j' i : Nat} (hi : i < 4) (h : j' ≠ j)
    (v : Word) : oct (writeOctets F j v) (4 * j' + i) = oct F (4 * j' + i) := by
  rw [oct_writeOctets, if_neg (by omega)]

theorem readOctets_writeOctets_whole {n : Nat} (F : Octets n) {j : Nat} (h : 4 * j + 4 ≤ n)
    (v : Word) : readOctets (writeOctets F j v) j = v := by
  have hoct (i : Nat) (hi : i < 4) := oct_writeOctets_same F hi (by omega : 4 * j + i < n) v
  rw [readOctets_eq, hoct 0 (by decide), hoct 1 (by decide), hoct 2 (by decide),
    hoct 3 (by decide), wordOf_byteOf]

/-- Where the array ends in the middle of the word, the lower half is skipped and reads 0. -/
theorem readOctets_writeOctets_half {n : Nat} (F : Octets n) {j : Nat} (h : n = 4 * j + 2)
    (v : Word) : readOctets (writeOctets F j v) j = v &&& ~~~(0x0000FFFF : Word) := by
  have hoct (i : Nat) (hi : i < 2) :=
    oct_writeOctets_same F (by omega : i < 4) (by omega : 4 * j + i < n) v
  calc readOctets (writeOctets F j v) j
      = half (byteOf v 0) (byteOf v 1) ++ (0 : Half) := by
        rw [readOctets_half _ h, ← hoct 0 (by decide), ← hoct 1 (by decide)]
        rfl
    _ = v &&& ~~~(0x0000FFFF : Word) := by
        rw [← append_and_highHalf _ (half (byteOf v 2) (byteOf v 3)), ← wordOf_eq_append,
          wordOf_byteOf]

theorem readOctets_writeOctets_of_ne {n : Nat} (F : Octets n) {j j' : Nat} (h : j' ≠ j)
    (v : Word) : readOctets (writeOctets F j v) j' = readOctets F j' := by
  have hoct (i : Nat) (hi : i < 4) := oct_writeOctets_of_ne F hi h v
  rw [readOctets_eq, hoct 0 (by decide), hoct 1 (by decide), hoct 2 (by decide),
    hoct 3 (by decide), readOctets_eq]

theorem sizeBit_sizeOf (b : Bool) : sizeBit (sizeOf b) = b := by cases b <;> rfl

theorem profileBit_profileOf (b : Bool) : profileBit (profileOf b) = b := by cases b <;> rfl

/-- A word cut down to its lowest `k` bits. -/
theorem zeroExtend_extractLsb'_eq_and (v : Word) {k : Nat} (hk : k ≤ 32) :
    (v.extractLsb' 0 k).zeroExtend 32 = v &&& BitVec.ofNat 32 (2 ^ k - 1) := by
  have hpow : 2 ^ k ≤ 2 ^ 32 := Nat.pow_le_pow_right (by decide) hk
  have hpos : 0 < 2 ^ k := Nat.two_pow_pos k
  apply BitVec.eq_of_toNat_eq
  rw [BitVec.toNat_setWidth, BitVec.extractLsb'_toNat, Nat.shiftRight_zero, BitVec.toNat_and,
    BitVec.toNat_ofNat, Nat.mod_eq_of_lt (a := 2 ^ k - 1) (by omega),
    Nat.and_two_pow_sub_one_eq_mod, Nat.mod_eq_of_lt]
  exact (Nat.mod_lt _ hpos).trans_le hpow

theorem bit_getElem_zero (v : Word) : bit v[0] = v &&& 0x00000001 := by
  have hbit : ∀ w : BitVec 1, bit w[0] = w.zeroExtend 32 := by decide
  have hlow := hbit (v.extractLsb' 0 1)
  rwa [BitVec.getElem_extractLsb', BitVec.getLsbD_eq_getElem (by decide),
    zeroExtend_extractLsb'_eq_and v (by decide)] at hlow

theorem bit_getElem_zero_or_one (v : Word) :
    bit v[0] ||| (bit v[1] <<< 1) = v &&& 0x00000003 := by
  have hbits : ∀ w : BitVec 2, bit w[0] ||| (bit w[1] <<< 1) = w.zeroExtend 32 := by decide
  have hlow := hbits (v.extractLsb' 0 2)
  rwa [BitVec.getElem_extractLsb', BitVec.getLsbD_eq_getElem (by decide),
    BitVec.getElem_extractLsb', BitVec.getLsbD_eq_getElem (by decide),
    zeroExtend_extractLsb'_eq_and v (by decide)] at hlow

theorem readReg_writeReg_same (s : State) (r : Reg) (v : Word) (hro : readOnly r = false)
    (hstatus : r ≠ .status) (hcmd : r ≠ .cmd) :
    readReg (writeReg s r v) r = v &&& ~~~reservedBits r := by
  cases r with
  | ctrl =>
    show bit (profileBit (profileOf v[0])) ||| (bit v[1] <<< 1) = v &&& 0x00000003
    rw [profileBit_profileOf, bit_getElem_zero_or_one]
  | plen => exact zeroExtend_extractLsb'_eq_and v (by decide)
  | pixelSize =>
    show bit (sizeBit (sizeOf v[0])) = v &&& 0x00000001
    rw [sizeBit_sizeOf, bit_getElem_zero]
  | pixelXy => exact (BitVec.and_allOnes).symm
  | pixelRgba => exact (BitVec.and_allOnes).symm
  | octets arr j =>
    have hfbuf : arr ≠ .fbuf := by
      rintro rfl
      cases hro
    rw [writeReg_octets s arr hfbuf, readReg, getArray_setArray]
    rcases reservedBits_octets arr j with ⟨hwhole, hbits⟩ | ⟨hhalf, hbits⟩
    · rw [hbits, readOctets_writeOctets_whole _ hwhole]
      exact (BitVec.and_allOnes).symm
    · rw [hbits, readOctets_writeOctets_half _ hhalf]
  | status => exact absurd rfl hstatus
  | cmd => exact absurd rfl hcmd
  | csum => cases hro
  | flen => cases hro

/-! ### No other register changes (R53) -/

theorem readReg_setArray_of_ne (s : State) {arr : OctetArray} (F : Octets arr.length) {r : Reg}
    (h : ∀ j, r ≠ .octets arr j) : readReg (setArray s arr F) r = readReg s r := by
  cases r with
  | octets arr' j =>
    have harr : arr' ≠ arr := by
      rintro rfl
      exact h j rfl
    rw [readReg, readReg, getArray_setArray_of_ne s harr]
  | _ => simp [readReg, statusWord]

theorem getArray_writeReg_scalar (s : State) {r : Reg} (h : ∀ arr j, r ≠ .octets arr j) (v : Word)
    (arr : OctetArray) : getArray (writeReg s r v) arr = getArray s arr := by
  cases r with
  | octets arr' j => exact absurd rfl (h arr' j)
  | _ => cases arr <;> rfl

theorem readReg_writeReg_scalar_of_ne (s : State) {r r' : Reg} (hr : ∀ arr j, r ≠ .octets arr j)
    (v : Word) (h : r' ≠ r) : readReg (writeReg s r v) r' = readReg s r' := by
  cases r' with
  | octets arr j => rw [readReg, readReg, getArray_writeReg_scalar s hr]
  | _ =>
    cases r with
    | octets arr j => exact absurd rfl (hr arr j)
    | _ => first | rfl | exact absurd rfl h

theorem readReg_writeReg_of_ne (s : State) {r r' : Reg} (v : Word) (h : r' ≠ r) :
    readReg (writeReg s r v) r' = readReg s r' := by
  cases r with
  | octets arr j =>
    by_cases hfbuf : arr = .fbuf
    · subst hfbuf
      rfl
    rw [writeReg_octets s arr hfbuf]
    by_cases hr : ∃ j', r' = .octets arr j'
    · obtain ⟨j', rfl⟩ := hr
      have hj : j'.val ≠ j.val := fun e => h (congrArg _ (Fin.ext e))
      rw [readReg, readReg, getArray_setArray, readOctets_writeOctets_of_ne _ hj]
    · exact readReg_setArray_of_ne s _ fun j' e => hr ⟨j', e⟩
  | _ => exact readReg_writeReg_scalar_of_ne s (fun _ _ e => by cases e) v h

/-- Settles O27: the write is `writeReg`, read back by `readReg_writeReg_same` and
`readReg_writeReg_of_ne`; the bits it keeps are the complement of `reservedBits`. -/
theorem writtenRegisterReadsBack : Obligations.WrittenRegisterReadsBack := by
  refine ⟨fun s off v hnone => ?_, fun s r => ?_, fun s r v hbusy hro hstatus hcmd => ?_⟩
  · constructor
    · rw [readWord, hnone]
    · rw [writeWord, hnone]
  · exact readReg_and_reservedBits s r
  · rw [writeWord_regOffset v hbusy hro hstatus hcmd, readWord_regOffset,
      readReg_writeReg_same s r v hro hstatus hcmd]
    refine ⟨congrArg (v &&& ·) ?_, fun r' hne => readReg_writeReg_of_ne s v hne⟩
    cases r with
    | status => exact absurd rfl hstatus
    | cmd => exact absurd rfl hcmd
    | csum => cases hro
    | flen => cases hro
    | octets arr j =>
      clear hro hstatus hcmd
      revert j
      cases arr <;> decide
    | _ => rfl

end Sys2Proof.Machine

/-!
PROOFS. The statements of 30_encoding.md: the rejection of a reserved opcode and the ignored bits of
a command word (R75).
-/

namespace Sys2Proof.Machine

/-! ### A command word counts only through its opcode field (R70, R75) -/

/-- What is ORed into a word above its low four bits does not reach the opcode field. -/
theorem opField_or_shiftLeft (v w : Word) : opField (v ||| (w <<< 4)) = opField v := by
  unfold opField
  ext i hi
  simp [hi]

/-- The checks at issue and the pending opcode read a command word in its opcode field alone. -/
theorem issueCommand_congr (s : State) {v v' : Word} (h : opField v = opField v') :
    issueCommand s v = issueCommand s v' := by
  simp only [issueCommand, decode, h]

/-! ### Reserved opcodes (R75) -/

theorem opcode_mem (i : Instr) : opcode i ∈ [0x1#4, 0x2#4, 0x3#4, 0x4#4] := by
  cases i <;> decide

/-- A word whose opcode is none of the four commands' is refused by name. -/
theorem decode_of_opField_notMem {v : Word} (h : opField v ∉ [0x1#4, 0x2#4, 0x3#4, 0x4#4]) :
    decode v = .error (.reservedOpcode (opField v)) := by
  rcases decodeOp_cases (opField v) with ⟨i, -, hop⟩ | ⟨herr, -⟩
  · exact absurd (hop ▸ opcode_mem i) h
  · exact herr

/-- Settles O3: a reserved word meets the one `reject` of `issueCommand_reserved`, and the issue
reads the opcode field only. -/
theorem reservedOpcodesAreRejected : Obligations.ReservedOpcodesAreRejected := by
  refine ⟨fun s v hbusy hop => ?_, fun s v w => issueCommand_congr s (opField_or_shiftLeft v w)⟩
  calc issueCommand s v
      = reject (clearDone s) .reservedOp :=
        issueCommand_reserved s v hbusy (decode_of_opField_notMem hop)
    _ = _ := reject_eq (clearDone s) .reservedOp

end Sys2Proof.Machine

/-!
PROOFS. The statements of 40_address_encoder.md: the address that ENCODE writes, segment by segment,
and what else it changes, under Profile A (R102) and under Profile B (R103).
-/

namespace Sys2Proof.Machine

/-! ### What ENCODE answers (R107) -/

theorem exec_encode (s : State) : exec .encode s = .next (complete (encodeBody s)) := rfl

/-- ENCODE under Profile A records an x beyond 12 bits. -/
theorem encodeBody_xrange_of_profile_a {s : State} (h : s.profile = .a) :
    (encodeBody s).xrange = (s.xrange || decide (0x0FFF < (opX s).toNat)) := by
  simp [xOutOfRange, h]

/-- ENCODE under Profile B leaves XRANGE alone, whatever x is. -/
theorem encodeBody_xrange_of_profile_b {s : State} (h : s.profile = .b) :
    (encodeBody s).xrange = s.xrange := by
  simp [xOutOfRange, h]

/-- The frame of ENCODE under either profile. -/
theorem complete_encodeBody_eq (s : State) :
    complete (encodeBody s) =
      { s with
        dstIp := (encodeBody s).dstIp
        xrange := (encodeBody s).xrange
        busy := false
        done := true } := rfl

/-- The segments of the DST_IP that ENCODE leaves are those of R102 or R103. -/
theorem segment_encodeBody_dstIp {s : State} {profile : Profile} (h : s.profile = profile)
    (i : Fin 8) :
    segment (encodeBody s).dstIp i =
      (encodeSegments profile s.prefixes (opX s) (opY s) (opR s) (opG s) (opB s) (opA s)
        (sizeCode s.pixelSize))[i] := by
  rw [encodeBody_dstIp, segment_encodeAddress, h]

/-- The size code where Profile A puts it, at bits 13:12 of segment 3 (R102, R105). -/
theorem sizeCode_shiftLeft (size : SizeTag) :
    (sizeCode size).zeroExtend 16 <<< 12 = if size = .area2x2 then 0x2000 else 0x1000 := by
  cases size <;> rfl

/-! ### The prefix octets of an address (R102, R103) -/

/-- How many segments of an address the prefix takes. -/
def prefixSegments : Profile → Nat
  | .a => 3
  | .b => 4

/-- The leading segments of an address are the pairs of octets of the prefix. -/
theorem encodeSegments_prefix (profile : Profile) (pre : Octets 8) (x y : Half) (r g b a : Byte)
    (code : BitVec 2) (i : Fin 8) (hi : i.val < prefixSegments profile) :
    (encodeSegments profile pre x y r g b a code)[i] =
      half (oct pre (2 * i)) (oct pre (2 * i + 1)) := by
  cases profile with
  | a =>
    have hi3 : i.val < 3 := hi
    obtain rfl | rfl | rfl : i = 0 ∨ i = 1 ∨ i = 2 := by omega
    all_goals rfl
  | b =>
    have hi4 : i.val < 4 := hi
    obtain rfl | rfl | rfl | rfl : i = 0 ∨ i = 1 ∨ i = 2 ∨ i = 3 := by omega
    all_goals rfl

/-- A segment fixes its two octets. -/
theorem oct_of_segment {A : Octets 16} {i : Fin 8} {hi lo : Byte} (h : segment A i = half hi lo) :
    oct A (2 * i) = hi ∧ oct A (2 * i + 1) = lo := by
  rw [segment_eq_oct] at h
  exact ⟨by simpa using congrArg hiByte h, by simpa using congrArg loByte h⟩

/-- The first octets of an address are the prefix: six under Profile A, eight under Profile B. -/
theorem oct_encodeAddress_prefix (profile : Profile) (pre : Octets 8) (x y : Half)
    (r g b a : Byte) (code : BitVec 2) {k : Nat} (hk : k < 2 * prefixSegments profile) :
    oct (encodeAddress profile pre x y r g b a code) k = oct pre k := by
  have hle : prefixSegments profile ≤ 4 := by cases profile <;> decide
  obtain ⟨m, hparity⟩ := Nat.even_or_odd' k
  have hm : m < prefixSegments profile := by omega
  obtain ⟨heven, hodd⟩ := oct_of_segment
    ((segment_encodeAddress profile pre x y r g b a code ⟨m, by omega⟩).trans
      (encodeSegments_prefix profile pre x y r g b a code ⟨m, by omega⟩ hm))
  rcases hparity with rfl | rfl
  · exact heven
  · exact hodd

/-- The first octets of the DST_IP that ENCODE leaves are those of PREFIX. -/
theorem oct_encodeBody_dstIp {s : State} {profile : Profile} (h : s.profile = profile) {k : Nat}
    (hk : k < 2 * prefixSegments profile) : oct (encodeBody s).dstIp k = oct s.prefixes k := by
  rw [encodeBody_dstIp, h]
  exact oct_encodeAddress_prefix _ _ _ _ _ _ _ _ _ hk

/-! ### ENCODE under each profile -/

/-- Settles O6: the layout is `segment_encodeBody_dstIp` read at segments 3 to 7. -/
theorem encodeUnderProfileA : Obligations.EncodeUnderProfileA := by
  intro s hprofile
  have hseg := segment_encodeBody_dstIp hprofile
  refine ⟨complete (encodeBody s), exec_encode s, complete_encodeBody_eq s,
    fun k hk => oct_encodeBody_dstIp hprofile hk, ?size, hseg 4, ?red, ?green, ?blue,
    encodeBody_xrange_of_profile_a hprofile⟩
  case size =>
    rw [← sizeCode_shiftLeft]
    exact hseg 3
  case red => exact (congrArg BitVec.toNat (hseg 5)).trans (zeroExtend_byte_toNat (opR s))
  case green => exact (congrArg BitVec.toNat (hseg 6)).trans (zeroExtend_byte_toNat (opG s))
  case blue => exact (congrArg BitVec.toNat (hseg 7)).trans (zeroExtend_byte_toNat (opB s))

/-- Settles O7: the layout is `segment_encodeBody_dstIp` read at segments 4 to 7, and XRANGE drops
out of the frame. -/
theorem encodeUnderProfileB : Obligations.EncodeUnderProfileB := by
  intro s hprofile
  have hseg := segment_encodeBody_dstIp hprofile
  refine ⟨complete (encodeBody s), exec_encode s, ?frame,
    fun k hk => oct_encodeBody_dstIp hprofile hk, hseg 4, hseg 5, ?blueGreen, ?redAlpha⟩
  case frame =>
    have hframe := complete_encodeBody_eq s
    rwa [encodeBody_xrange_of_profile_b hprofile] at hframe
  case blueGreen => exact (congrArg BitVec.toNat (hseg 6)).trans (half_toNat (opB s) (opG s))
  case redAlpha => exact (congrArg BitVec.toNat (hseg 7)).trans (half_toNat (opR s) (opA s))

end Sys2Proof.Machine

/-!
PROOFS. The statements of 41_checksum.md: the fold of the word sum and its complement (R123), the
CSUM command and the checks at its issue (R126).
-/

namespace Sys2Proof.Machine

/-! ### The fold as the loop of R123 -/

/-- A turn of the loop makes the sum smaller: this is why the loop ends. -/
theorem foldTurn_lt {sum : Nat} (h : 0xFFFF < sum) : sum % 0x10000 + sum / 0x10000 < sum := by
  omega

/-- Fuel of at least the sum is never used up, so how much there is does not matter. -/
theorem foldSteps_congr {fuel fuel' sum : Nat} (h : sum ≤ fuel) (h' : sum ≤ fuel') :
    foldSteps fuel sum = foldSteps fuel' sum := by
  induction fuel generalizing fuel' sum with
  | zero =>
    have hsum : sum ≤ 0xFFFF := by omega
    rw [foldSteps_done _ _ hsum, foldSteps_done _ _ hsum]
  | succ fuel ih =>
    rcases Nat.lt_or_ge 0xFFFF sum with hsum | hsum
    · have hturn := foldTurn_lt hsum
      obtain ⟨fuel', rfl⟩ : ∃ n, fuel' = n + 1 := Nat.exists_eq_add_one.mpr (by omega)
      rw [foldSteps_step _ _ hsum, foldSteps_step _ _ hsum]
      exact ih (by omega) (by omega)
    · rw [foldSteps_done _ _ hsum, foldSteps_done _ _ hsum]

/-- The loop's exit: a sum without a carry is its own fold. -/
theorem foldSum_eq_self {sum : Nat} (h : sum ≤ 0xFFFF) : foldSum sum = sum :=
  foldSteps_done sum sum h

/-- The loop's body: a sum with a carry folds as its low 16 bits plus the rest. -/
theorem foldSum_carry {sum : Nat} (h : 0xFFFF < sum) :
    foldSum sum = foldSum (sum % 0x10000 + sum / 0x10000) := by
  have hturn := foldTurn_lt h
  calc foldSum sum
      = foldSteps (sum + 1) sum := foldSteps_congr le_rfl (Nat.le_succ sum)
    _ = foldSteps sum (sum % 0x10000 + sum / 0x10000) := foldSteps_step sum sum h
    _ = foldSum (sum % 0x10000 + sum / 0x10000) := foldSteps_congr hturn.le le_rfl

/-- The loop is left only without a carry. -/
theorem foldSum_le (sum : Nat) : foldSum sum ≤ 0xFFFF := by
  induction sum using Nat.strong_induction_on with
  | h sum ih =>
    rcases Nat.lt_or_ge 0xFFFF sum with hsum | hsum
    · rw [foldSum_carry hsum]
      exact ih _ (foldTurn_lt hsum)
    · rwa [foldSum_eq_self hsum]

/-- The bitwise NOT of the folded sum, as a number: no bit of the sum is cut off. -/
theorem onesComplement_toNat (stream : List Byte) :
    (onesComplement stream).toNat = 0xFFFF - foldSum (wordSum stream) := by
  have hfits : foldSum (wordSum stream) < 2 ^ 16 := Nat.lt_succ_of_le (foldSum_le _)
  rw [onesComplement, BitVec.toNat_not, BitVec.toNat_ofNat, Nat.mod_eq_of_lt hfits]

/-- Settles O15: the loop's exit, its body, its bound and the complement, each a lemma above. -/
theorem foldRepeatsUntilNoCarry : Obligations.FoldRepeatsUntilNoCarry :=
  ⟨foldSum_le, fun _ => foldSum_eq_self, fun _ => foldSum_carry, onesComplement_toNat⟩

/-! ### The CSUM command (R126) -/

theorem exec_csum (s : State) :
    exec .csum s = .next (complete { s with csum := checksum s.srcIp s.dstIp (payload s) }) := rfl

/-- The word of CSUM is told by its low four bits. -/
theorem decode_of_opField_csum {v : Word} (h : opField v = 0x2) : decode v = .ok .csum :=
  (congrArg decodeOp h).trans (decodeOp_opcode .csum)

/-- CSUM with PLEN beyond the buffer is the one command refused for an operand (R164). -/
theorem issueCommand_plenRange (s : State) (v : Word) (hbusy : s.busy = false)
    (hv : decode v = .ok .csum) (hplen : 64 < s.plen.toNat) :
    issueCommand s v = reject (clearDone s) .plenRange := by
  simp [issueCommand, hbusy, hv, hplen]

/-- Settles O19: the payload within the buffer is `payload_eq_take`, and each check at issue is its
own equation of `issueCommand`. -/
theorem csumCommand : Obligations.CsumCommand := by
  refine ⟨fun s hplen => ?result, fun s v hop => ?issue⟩
  case result =>
    rw [exec_csum, payload_eq_take s hplen]
    rfl
  case issue =>
    have hcsum : decode v = .ok .csum := decode_of_opField_csum hop
    split
    case isTrue hbusy => exact issueCommand_busy s v hbusy
    case isFalse hbusy =>
      have hidle : s.busy = false := Bool.eq_false_of_not_eq_true hbusy
      split
      case isTrue hplen => exact issueCommand_plenRange s v hidle hcsum hplen
      case isFalse hplen =>
        have haccept := issueCommand_accepted s v hidle hcsum fun _ => Nat.le_of_not_lt hplen
        rwa [show opField v = 0x2 from hop] at haccept

end Sys2Proof.Machine

/-!
PROOFS. The statements of 42_framer.md: the frame that BUILD leaves in FBUF, part by part (R140 to
R146), and what else it changes.
-/

namespace Sys2Proof.Machine

/-! ### What BUILD answers (R147) -/

theorem exec_build (s : State) : exec .build s = .next (complete (buildBody s)) := rfl

/-- The frame of BUILD: all it changes are its three results and the two completion flags. -/
theorem complete_buildBody_eq (s : State) :
    complete (buildBody s) =
      { s with
        fbuf := (buildBody s).fbuf
        flen := (buildBody s).flen
        csum := (buildBody s).csum
        busy := false
        done := true } := rfl

/-- The two lengths of R140; the 16 bits of FLEN cut neither. -/
theorem buildBody_flen_toNat (s : State) :
    (buildBody s).flen.toNat = if s.linkEn then 62 else 48 := by
  rw [buildBody_flen, frameOctets_length]
  cases s.linkEn <;> rfl

/-! ### The parts of a frame, in order -/

/-- The IPv6 header before its addresses: version, class and flow label, payload length 8, next
header 58, hop limit 64 (R143). -/
def ipFixedOctets : List Byte := [0x60, 0x08, 0x0A, 0xF4, 0x00, 0x08, 0x3A, 0x40]

theorem ipHeader_eq_append (src dst : Octets 16) :
    ipHeader src dst = ipFixedOctets ++ (src.toList ++ dst.toList) := by
  simp [ipHeader, ipFixedOctets]

/-- The ICMPv6 message of the frame that BUILD makes, its checksum low byte first (R145). -/
def builtMessage (s : State) : List Byte :=
  icmpMessage (loByte (buildBody s).csum) (hiByte (buildBody s).csum)

/-- The octets that BUILD pads and stores, cut where R140 and R143 cut them. -/
theorem frameOctets_eq_append (s : State) :
    frameOctets s.linkEn s.srcMac s.dstMac s.srcIp s.dstIp =
      linkHeader s.linkEn s.srcMac s.dstMac ++
        (ipFixedOctets ++ (s.srcIp.toList ++ (s.dstIp.toList ++ builtMessage s))) := by
  simp [frameOctets, ipHeader_eq_append, builtMessage]

/-- With a link header the frame begins with its three parts (R142). -/
theorem frameOctets_eq_append_of_link {s : State} (h : s.linkEn = true) :
    frameOctets s.linkEn s.srcMac s.dstMac s.srcIp s.dstIp =
      s.dstMac.toList ++ (s.srcMac.toList ++
        ([0x86, 0xDD] ++ (ipHeader s.srcIp s.dstIp ++ builtMessage s))) := by
  simp [frameOctets, linkHeader, h, builtMessage]

/-- Every frame fits FBUF. -/
theorem frameOctets_length_le (link : Bool) (smac dmac : Octets 6) (src dst : Octets 16) :
    (frameOctets link smac dmac src dst).length ≤ 64 := by
  have hbase := frameBase_le link
  rw [frameOctets_length]
  omega

/-! ### The parts of FBUF -/

/-- A part of the frame stands in FBUF at the octets its place in the frame gives. -/
theorem octetRange_buildBody_fbuf {s : State} {before part after : List Byte} {i j : Nat}
    (hframe : frameOctets s.linkEn s.srcMac s.dstMac s.srcIp s.dstIp = before ++ (part ++ after))
    (hi : before.length = i) (hj : i + part.length = j) :
    octetRange (buildBody s).fbuf i j = part := by
  have hfits := frameOctets_length_le s.linkEn s.srcMac s.dstMac s.srcIp s.dstIp
  have hend : j ≤ (frameOctets s.linkEn s.srcMac s.dstMac s.srcIp s.dstIp).length := by
    rw [hframe, List.length_append, List.length_append]
    omega
  rw [buildBody_fbuf, octetRange_padOctets _ hfits i j hend, hframe]
  exact drop_take_middle hi (by omega)

/-- The link header: the two MACs, then the ethertype (R142). -/
theorem octetRange_buildBody_link {s : State} (h : s.linkEn = true) :
    octetRange (buildBody s).fbuf 0 6 = s.dstMac.toList ∧
    octetRange (buildBody s).fbuf 6 12 = s.srcMac.toList ∧
    octetRange (buildBody s).fbuf 12 14 = [0x86, 0xDD] := by
  have hframe := frameOctets_eq_append_of_link h
  refine ⟨?dstMac, ?srcMac, ?ethertype⟩
  case dstMac => exact octetRange_buildBody_fbuf (before := []) hframe rfl (by simp)
  case srcMac => exact octetRange_buildBody_fbuf hframe (by simp) (by simp)
  case ethertype =>
    exact octetRange_buildBody_fbuf (hframe.trans (List.append_assoc _ _ _).symm) (by simp) rfl

/-- The IPv6 header's constant octets (R143). -/
theorem octetRange_buildBody_ipFixed (s : State) :
    octetRange (buildBody s).fbuf (frameBase s.linkEn) (frameBase s.linkEn + 8) = ipFixedOctets :=
  octetRange_buildBody_fbuf (frameOctets_eq_append s) (linkHeader_length _ _ _) rfl

/-- The IPv6 header's source address (R143). -/
theorem octetRange_buildBody_srcIp (s : State) :
    octetRange (buildBody s).fbuf (frameBase s.linkEn + 8) (frameBase s.linkEn + 24) =
      s.srcIp.toList :=
  octetRange_buildBody_fbuf
    (before := linkHeader s.linkEn s.srcMac s.dstMac ++ ipFixedOctets)
    ((frameOctets_eq_append s).trans (List.append_assoc _ _ _).symm)
    (by simp [linkHeader_length, ipFixedOctets]) (by simp)

/-- The IPv6 header's destination address (R143). -/
theorem octetRange_buildBody_dstIp (s : State) :
    octetRange (buildBody s).fbuf (frameBase s.linkEn + 24) (frameBase s.linkEn + 40) =
      s.dstIp.toList :=
  octetRange_buildBody_fbuf
    (before := linkHeader s.linkEn s.srcMac s.dstMac ++ (ipFixedOctets ++ s.srcIp.toList))
    (by rw [frameOctets_eq_append, List.append_assoc, List.append_assoc])
    (by simp [linkHeader_length, ipFixedOctets]) (by simp)

/-- The ICMPv6 message, the frame's last part (R140, R144, R145). -/
theorem octetRange_buildBody_icmp (s : State) :
    octetRange (buildBody s).fbuf (frameBase s.linkEn + 40) (frameBase s.linkEn + 48) =
      builtMessage s :=
  octetRange_buildBody_fbuf (after := [])
    (before := linkHeader s.linkEn s.srcMac s.dstMac ++
      (ipFixedOctets ++ (s.srcIp.toList ++ s.dstIp.toList)))
    (by simp only [frameOctets_eq_append, List.append_assoc, List.append_nil])
    (by simp [linkHeader_length, ipFixedOctets]) rfl

/-- FBUF is zero past the frame (R146). -/
theorem oct_buildBody_fbuf_past {s : State} {k : Nat} (hk : frameBase s.linkEn + 48 ≤ k) :
    oct (buildBody s).fbuf k = 0 := by
  rw [buildBody_fbuf, oct_padOctets _ (frameOctets_length_le _ _ _ _ _)]
  exact List.getD_eq_default _ _ (by rwa [frameOctets_length])

/-- Settles O22: each range of FBUF is a part of the frame, and each part a lemma above; CSUM is
`frameChecksum`, the checksum of the message with a zero checksum. -/
theorem buildWritesTheFrame : Obligations.BuildWritesTheFrame := fun s =>
  ⟨complete (buildBody s), exec_build s, complete_buildBody_eq s, buildBody_flen_toNat s,
    octetRange_buildBody_link, octetRange_buildBody_ipFixed s, octetRange_buildBody_srcIp s,
    octetRange_buildBody_dstIp s, octetRange_buildBody_icmp s, fun _ => oct_buildBody_fbuf_past,
    buildBody_csum s⟩

end Sys2Proof.Machine

/-!
PROOFS. The statements of 60_exceptions.md: rejections (R162), host writes while BUSY (R163), the
checks at issue (R164), the clearing of STATUS (R165), the XRANGE warning (R167), repeated writes
(20_memory.md R60) and ended runs (70_reset_and_hazards.md R189).
-/

namespace Sys2Proof.Machine

/-! ### Rejections (R162) -/

theorem reject_of_err {s : State} (c : RejectCode) (h : s.err = true) : reject s c = s := if_pos h

/-- A rejection after a CMD write has cleared DONE, as one record update. -/
theorem reject_clearDone_eq (s : State) (c : RejectCode) :
    reject (clearDone s) c =
      { s with
        done := false
        err := true
        errcode := if s.err then s.errcode else rejectCode c } :=
  reject_eq (clearDone s) c

/-- Settles O32: the capture is the branch of `reject` on ERR, and a rejection leaves ERR set. -/
theorem firstRejectionIsKept : Obligations.FirstRejectionIsKept := by
  refine ⟨fun s c herr => ?_, fun s c herr => reject_of_err c herr,
    fun s c d => reject_of_err d (reject_err s c)⟩
  rw [reject_eq, herr]
  rfl

/-! ### The write dispatch, by what stands at the offset (20_memory.md R57) -/

theorem writeWord_status (s : State) (v : Word) : writeWord s 0x004 v = writeStatus s v := rfl

theorem writeWord_cmd (s : State) (v : Word) : writeWord s 0x008 v = issueCommand s v := rfl

/-- A read-only or reserved offset ignores a write, whatever BUSY is. -/
theorem writeWord_ignored {s : State} {off : Nat} (v : Word)
    (h : ∀ r, regAt off = some r → readOnly r = true) : writeWord s off v = s := by
  cases hat : regAt off with
  | none => rw [writeWord, hat]
  | some r =>
    rcases (readOnly_iff r).1 (h r hat) with rfl | rfl | ⟨j, rfl⟩ <;> simp [writeWord, hat, readOnly]

/-- A writable register's write while BUSY is dropped with code 4. -/
theorem writeWord_regOffset_busy {s : State} {r : Reg} (v : Word) (hbusy : s.busy = true)
    (hro : readOnly r = false) (hstatus : r ≠ .status) (hcmd : r ≠ .cmd) :
    writeWord s (regOffset r) v = reject s .writeBusy := by
  have hat := regAt_regOffset r
  rcases writeWord_cases s (regOffset r) v with
    ⟨-, h⟩ | ⟨h, -⟩ | ⟨h, -⟩ | ⟨-, h⟩ | ⟨h, -⟩
  · simp [h r hat] at hro
  · exact absurd (Option.some.inj (hat.symm.trans h)) hstatus
  · exact absurd (Option.some.inj (hat.symm.trans h)) hcmd
  · exact h
  · simp [h] at hbusy

theorem writeWord_cmd_busy {s : State} (v : Word) (hbusy : s.busy = true) :
    writeWord s 0x008 v =
      { s with done := false, err := true, errcode := if s.err then s.errcode else 2 } := by
  rw [writeWord_cmd, issueCommand_busy s v hbusy]
  exact reject_clearDone_eq s .cmdBusy

/-- Settles O30: each clause is the dispatch at its kind of offset, and each rejection one record
update. -/
theorem writesWhileBusy : Obligations.WritesWhileBusy := by
  refine ⟨fun s v hbusy => ⟨fun r hro hstatus hcmd => ?_, writeWord_cmd_busy v hbusy⟩,
    writeWord_status, fun s off v h => writeWord_ignored v h⟩
  rw [writeWord_regOffset_busy v hbusy hro hstatus hcmd]
  exact reject_eq s .writeBusy

/-! ### The checks at issue (R164) -/

/-- A word whose opcode is one of the four is a command. -/
theorem decode_of_opField_mem {v : Word} (h : opField v ∈ [0x1#4, 0x2#4, 0x3#4, 0x4#4]) :
    ∃ i, decode v = .ok i ∧ opField v = opcode i := by
  rcases decodeOp_cases (opField v) with hcommand | ⟨-, hreserved⟩
  · exact hcommand
  · exact absurd h hreserved

/-- Settles O31: one equation of `issueCommand` per check, in the order of the rule. -/
theorem issueChecksInOrder : Obligations.IssueChecksInOrder := by
  intro s v
  refine ⟨writeWord_cmd_busy v, fun hidle hop => ?reserved, fun hidle hop hplen => ?plenRange,
    fun hidle hop hplen => ?accepted⟩
  case reserved =>
    rw [writeWord_cmd, issueCommand_reserved s v hidle (decode_of_opField_notMem hop)]
    exact reject_clearDone_eq s .reservedOp
  case plenRange =>
    rw [writeWord_cmd, issueCommand_plenRange s v hidle (decode_of_opField_csum hop) hplen]
    exact reject_clearDone_eq s .plenRange
  case accepted =>
    obtain ⟨i, hdecode, hopcode⟩ := decode_of_opField_mem hop
    have hcsum : i = .csum → s.plen.toNat ≤ 64 := by
      rintro rfl
      exact hplen hopcode
    rw [writeWord_cmd, issueCommand_accepted s v hidle hdecode hcsum]
    rfl

/-! ### What is recorded in STATUS is lost by a STATUS write or a reset only (R165, R167) -/

/-- `t` still holds the rejection and the warning that STATUS records in `s`. -/
def KeepsRecorded (s t : State) : Prop :=
  (s.err = true → t.err = true ∧ t.errcode = s.errcode) ∧ (s.xrange = true → t.xrange = true)

theorem KeepsRecorded.of_eq {s t : State} (herr : t.err = s.err) (hcode : t.errcode = s.errcode)
    (hxrange : t.xrange = s.xrange) : KeepsRecorded s t :=
  ⟨fun h => ⟨herr.trans h, hcode⟩, hxrange.trans⟩

theorem reject_keepsRecorded (s : State) (c : RejectCode) : KeepsRecorded s (reject s c) :=
  ⟨fun h => ⟨reject_err s c, by rw [reject_of_err c h]⟩, (reject_xrange s c).trans⟩

theorem issueCommand_keepsRecorded (s : State) (v : Word) :
    KeepsRecorded s (issueCommand s v) := by
  rcases issueCommand_cases s v with ⟨c, h⟩ | ⟨-, h, -⟩ <;> rw [h]
  · exact reject_keepsRecorded (clearDone s) c
  · exact .of_eq rfl rfl rfl

theorem writeWord_keepsRecorded (s : State) {off : Nat} (v : Word) (hoff : off ≠ 0x004) :
    KeepsRecorded s (writeWord s off v) := by
  rcases writeWord_cases s off v with ⟨h, -⟩ | ⟨hat, -⟩ | ⟨-, h⟩ | ⟨-, h⟩ | ⟨-, r, -, -, -, -, h⟩
  · rw [h]
    exact .of_eq rfl rfl rfl
  · exact absurd (regAt_eq_some_iff.1 hat) hoff
  · rw [h]
    exact issueCommand_keepsRecorded s v
  · rw [h]
    exact reject_keepsRecorded s .writeBusy
  · rw [h]
    exact .of_eq (writeReg_err s r v) (writeReg_errcode s r v) (writeReg_xrange s r v)

theorem exec_keepsRecorded {i : Instr} {s t : State} (h : exec i s = .next t) :
    KeepsRecorded s t := by
  obtain ⟨herr, hcode, -, -, hxrange⟩ := exec_status h
  refine ⟨fun he => ⟨herr.trans he, hcode⟩, fun hx => ?_⟩
  rcases hxrange with hsame | ⟨-, hor⟩
  · exact hsame.trans hx
  · rw [hor, hx, Bool.true_or]

/-- Every step keeps what STATUS records, takes a reset, or performs a write of STATUS. -/
theorem step_keepsRecorded {s t : State} (h : step s = .next t) :
    KeepsRecorded s t ∨ (∃ rest, s.script = .reset :: rest) ∨
      ∃ (v : Word) (rest : List HostEvent), s.script = .access (.write 32 0x004 v) :: rest ∧
        t = writeStatus (countAccess (setScript s rest)) v := by
  rcases step_cases h with ⟨-, -, i, -, hexec⟩ | ⟨e, rest, -, hscript, hhost⟩ | rfl
  · exact .inl (exec_keepsRecorded hexec)
  · rcases hostStep_cases hhost with ⟨sc, off, rfl, -⟩ | ⟨off, v, rfl, -, -, rfl⟩ | ⟨rfl, -⟩
    · exact .inl (.of_eq rfl rfl rfl)
    · by_cases hoff : off = 0x004
      · subst hoff
        exact .inr (.inr ⟨v, rest, hscript, rfl⟩)
      · exact .inl (writeWord_keepsRecorded (countAccess (setScript s rest)) v hoff)
    · exact .inr (.inl ⟨rest, hscript⟩)
  · exact .inl (.of_eq rfl rfl rfl)

theorem step_clears_xrange {s t : State} (h : step s = .next t) (hs : s.xrange = true)
    (ht : t.xrange = false) :
    ∃ rest, s.script = .reset :: rest ∨
      ∃ v : Word, s.script = .access (.write 32 0x004 v) :: rest ∧ v[3] = true := by
  rcases step_keepsRecorded h with ⟨-, hkeep⟩ | ⟨rest, hreset⟩ | ⟨v, rest, hwrite, rfl⟩
  · simp [hkeep hs] at ht
  · exact ⟨rest, .inl hreset⟩
  · exact ⟨rest, .inr ⟨v, hwrite, by simpa [hs] using ht⟩⟩

theorem step_clears_err {s t : State} (h : step s = .next t) (hs : s.err = true)
    (ht : t.err = false ∨ t.errcode ≠ s.errcode) :
    ∃ rest, s.script = .reset :: rest ∨
      ∃ v : Word, s.script = .access (.write 32 0x004 v) :: rest ∧ v[2] = true := by
  rcases step_keepsRecorded h with ⟨hkeep, -⟩ | ⟨rest, hreset⟩ | ⟨v, rest, hwrite, rfl⟩
  · obtain ⟨herr, hcode⟩ := hkeep hs
    simp [herr, hcode] at ht
  · exact ⟨rest, .inl hreset⟩
  · refine ⟨rest, .inr ⟨v, hwrite, ?_⟩⟩
    rcases ht with herr | hcode
    · simpa [hs] using herr
    · by_contra hclear
      simp [hclear] at hcode

/-- Settles O33: a STATUS write is `writeStatus`, and every other step but a reset keeps what is
recorded. -/
theorem statusClearing : Obligations.StatusClearing := by
  refine ⟨fun s v => ?_, fun s t h => ⟨fun ⟨hs, ht⟩ => step_clears_err h hs ht,
    fun ⟨hs, ht⟩ => step_clears_xrange h hs ht⟩⟩
  have hclear : ∀ held named : Bool, (held && !named) = if named then false else held := by decide
  rw [writeWord_status, writeStatus, hclear, hclear, hclear]

/-! ### The XRANGE warning (R167) -/

theorem exec_encodeBuild (s : State) :
    exec .encodeBuild s = .next (complete (buildBody (encodeBody s))) := rfl

/-- XRANGE after the body of ENCODE, under either profile. -/
theorem encodeBody_xrange_eq (s : State) :
    (encodeBody s).xrange =
      (s.xrange || decide (s.profile = .a ∧ 0x0FFF < (s.pixelXy.extractLsb' 0 16).toNat)) := by
  rw [encodeBody_xrange, xOutOfRange, Bool.decide_and]
  rfl

/-- Settles O8: both commands take DST_IP and XRANGE from the body of ENCODE, and no step but those
of `step_clears_xrange` loses the warning. -/
theorem xrangeIsAStickyWarning : Obligations.XrangeIsAStickyWarning := by
  refine ⟨fun s i hi => ?_, fun s t h hs ht => step_clears_xrange h hs ht⟩
  rcases hi with rfl | rfl
  · exact ⟨_, exec_encode s, encodeBody_xrange_eq s, encodeBody_dstIp s, rfl, rfl, rfl, rfl⟩
  · exact ⟨_, exec_encodeBuild s, encodeBody_xrange_eq s, encodeBody_dstIp s, rfl, rfl, rfl, rfl⟩

/-! ### Repeated writes (20_memory.md R60) -/

theorem writeStatus_writeStatus (s : State) (v : Word) :
    writeStatus (writeStatus s v) v = writeStatus s v := by
  by_cases herr : v[2] = true <;> simp [writeStatus, herr]

theorem writeOctets_writeOctets {n : Nat} (F : Octets n) (j : Nat) (v : Word) :
    writeOctets (writeOctets F j v) j v = writeOctets F j v := by
  ext k hk
  simp only [getElem_writeOctets _ _ _ hk]
  split <;> rfl

theorem writeReg_writeReg (s : State) (r : Reg) (v : Word) :
    writeReg (writeReg s r v) r v = writeReg s r v := by
  cases r with
  | octets arr j =>
    by_cases hfbuf : arr = .fbuf
    · subst hfbuf
      rfl
    · simp only [writeReg_octets _ arr hfbuf, getArray_setArray, setArray_setArray,
        writeOctets_writeOctets]
  | _ => rfl

/-- Settles O37, by what stands at the offset: an ignored write, STATUS, or a writable register with
BUSY = 1 or 0; each keeps what decides that case. -/
theorem repeatedWriteIsIdempotent : Obligations.RepeatedWriteIsIdempotent := by
  intro s off v hoff
  by_cases hignored : ∀ r, regAt off = some r → readOnly r = true
  · rw [writeWord_ignored v hignored, writeWord_ignored v hignored]
  push Not at hignored
  obtain ⟨r, hat, hro⟩ := hignored
  obtain rfl := regAt_eq_some_iff.1 hat
  replace hro := Bool.eq_false_of_not_eq_true hro
  have hcmd : r ≠ .cmd := by
    rintro rfl
    exact hoff rfl
  by_cases hstatus : r = .status
  · subst hstatus
    exact writeStatus_writeStatus s v
  cases hbusy : s.busy with
  | true =>
    rw [writeWord_regOffset_busy v hbusy hro hstatus hcmd,
      writeWord_regOffset_busy v ((reject_busy s _).trans hbusy) hro hstatus hcmd]
    exact reject_of_err _ (reject_err s _)
  | false =>
    rw [writeWord_regOffset v hbusy hro hstatus hcmd,
      writeWord_regOffset v ((writeReg_busy s r v).trans hbusy) hro hstatus hcmd]
    exact writeReg_writeReg s r v

/-! ### Ended runs (70_reset_and_hazards.md R189) -/

theorem step_of_turn_engine {s : State} {i : Instr} (hturn : turn s = .engine)
    (hi : pendingInstr s = .ok i) : step s = exec i s := by
  simp [step, hturn, hi]

theorem step_of_turn_host {s : State} {e : HostEvent} {rest : List HostEvent}
    (hturn : turn s = .host e rest) : step s = hostStep s e rest := by
  simp [step, hturn]

theorem step_of_turn_idle {s : State} (hturn : turn s = .idle) : step s = .next s := by
  simp [step, hturn]

/-- Every command completes, with the events to come left as they are. -/
theorem exec_completes (i : Instr) (s : State) :
    ∃ t, exec i s = .next t ∧ t.busy = false ∧ t.script = s.script := by
  cases i <;> exact ⟨_, rfl, rfl, rfl⟩

/-- With the host done, one step ends the run, unless PENDING_OP is no command while BUSY = 1. -/
theorem step_runEnded {s : State} (hdone : hostDone s)
    (hpending : s.busy = true → ∃ i, pendingInstr s = .ok i) :
    ∃ t, step s = .next t ∧ runEnded t := by
  rcases turn_cases s with ⟨hturn, hbusy⟩ | ⟨e, rest, hturn, hscript⟩ | ⟨hturn, -, hidle⟩
  · obtain ⟨i, hi⟩ := hpending hbusy
    obtain ⟨t, hexec, hidle, hkept⟩ := exec_completes i s
    refine ⟨t, (step_of_turn_engine hturn hi).trans hexec, ?_, hidle⟩
    rwa [hostDone, hkept]
  · rw [hostDone, hscript, List.forall_mem_cons] at hdone
    obtain ⟨rfl, hrest⟩ := hdone
    exact ⟨takeReset (setScript s rest), step_of_turn_host hturn, hrest, rfl⟩
  · exact ⟨s, step_of_turn_idle hturn, hdone, hidle⟩

/-- A property that every state having it passes on by a step holds after every number of steps. -/
theorem run_of_step {P : State → Prop} (hstep : ∀ s, P s → ∃ t, step s = .next t ∧ P t) (n : Nat)
    {s : State} (hs : P s) : ∃ t, Sys2Proof.core.run n s = .next t ∧ P t := by
  induction n generalizing s with
  | zero => exact ⟨s, rfl, hs⟩
  | succ n ih =>
    obtain ⟨t, hst, ht⟩ := hstep s hs
    rw [run_succ n s t hst]
    exact ih ht

theorem runEnded_step {s : State} (h : runEnded s) : ∃ t, step s = .next t ∧ runEnded t := by
  obtain ⟨hdone, hidle⟩ := h
  exact step_runEnded hdone fun hbusy => by simp [hidle] at hbusy

theorem runEnded_iff (s : State) :
    runEnded s ↔ s.busy = false ∧ ∀ e : HostEvent, e ≠ .reset → e ∉ s.script := by
  have hdone : hostDone s ↔ ∀ e : HostEvent, e ≠ .reset → e ∉ s.script :=
    forall_congr' fun e => not_imp_not.symm
  rw [runEnded, hdone, and_comm]

/-- Settles O53: stability is the run of `runEnded_step`, and a step owed is `step_runEnded`. -/
theorem endedRunStaysEnded : Obligations.EndedRunStaysEnded := by
  refine ⟨runEnded_iff, fun s hended n => run_of_step (fun _ => runEnded_step) n hended,
    fun s i hbusy hi hdone => ⟨fun ⟨_, hidle⟩ => ?_, step_runEnded hdone fun _ => ⟨i, hi⟩⟩⟩
  simp [hidle] at hbusy

end Sys2Proof.Machine

/-!
PROOFS. The statements of 70_reset_and_hazards.md on reset: what every register word reads then, and
that a reset taken in any state leaves the block so (R180).
-/

namespace Sys2Proof.Machine

/-! ### What a register word reads after reset (R180) -/

/-- A word of an array of zeros is 0, within the array and past its end. -/
theorem readOctets_replicate_zero (n j : Nat) :
    readOctets (Vector.replicate n (0 : Byte)) j = 0 := by
  have hzero (k : Nat) : oct (Vector.replicate n (0 : Byte)) k = 0 := by
    by_cases hk : k < n
    · rw [oct_of_lt _ hk, Vector.getElem_replicate]
    · exact oct_past _ (Nat.le_of_not_lt hk)
  rw [readOctets, hzero, hzero, hzero, hzero]
  rfl

theorem getArray_reset (arr : OctetArray) :
    getArray State.reset arr = Vector.replicate arr.length 0 := by
  cases arr <;> rfl

theorem readReg_reset (r : Reg) :
    readReg State.reset r = if r = .pixelRgba then 0x000000FF else 0 := by
  cases r with
  | octets arr j =>
    rw [if_neg nofun, readReg, getArray_reset]
    exact readOctets_replicate_zero _ _
  | _ => rfl

/-! ### A reset taken in any state (R180) -/

theorem sameBlock_takeReset (s : State) : sameBlock State.reset (takeReset s) := rfl

/-- A reset leaves no command pending, so no engine step comes before the host's next event. -/
theorem turn_takeReset {s : State} {e : HostEvent} {rest : List HostEvent}
    (hscript : s.script = e :: rest) : turn (takeReset s) = .host e rest :=
  turn_host ((takeReset_script s).trans hscript) fun hbusy => by simp at hbusy

/-- Settles O40: the values are `readReg_reset`, and the reset block is idle, so by `turn_takeReset`
the host goes on. -/
theorem resetValues : Obligations.ResetValues :=
  ⟨readReg_reset, rfl, rfl, sameBlock_takeReset, fun _ _ _ => turn_takeReset⟩

end Sys2Proof.Machine

/-!
PROOFS. The rest of 30_encoding.md: decoding and encoding (R70, R71), and the printed form of a
command word read back (R78).
-/

namespace Sys2Proof.Machine

/-! ### The digits of a reserved word (R78) -/

theorem hexRun_hexDigit_cons (d : BitVec 4) (cs : List Char) (acc : Nat) :
    hexRun (hexDigit d :: cs) acc = hexRun cs (acc * 16 + d.toNat) := by
  rw [hexRun, hexValue_hexDigit]

/-- Eight digits, read back most significant first, are the number they print. -/
theorem hexRun_hexText (v : Word) : hexRun (hexText v) 0 = some v.toNat := by
  have hlt := v.isLt
  simp only [hexText, hexRun_hexDigit_cons]
  rw [hexRun]
  refine congrArg some ?_
  simp only [BitVec.extractLsb'_toNat, Nat.shiftRight_eq_div_pow]
  omega

/-- No digit ends the run of digits: neither the space nor the `;` of the comment is one. -/
theorem hexDigit_ne_separator (d : BitVec 4) :
    (hexDigit d ≠ ' ' && hexDigit d ≠ ';') = true := by
  revert d
  decide

theorem takeWhile_hexText (v : Word) :
    (hexText v ++ reservedComment).takeWhile (fun c => c ≠ ' ' && c ≠ ';') = hexText v := by
  have hdigits : ∀ c ∈ hexText v, (c ≠ ' ' && c ≠ ';') = true := by
    simp only [hexText, List.forall_mem_cons, hexDigit_ne_separator, List.not_mem_nil,
      false_implies, implies_true, and_self]
  rw [List.takeWhile_append_of_pos hdigits]
  exact List.append_nil _

/-! ### Printing, then parsing (R78) -/

theorem parseCommand_mnemonicText (i : Instr) :
    parseCommand (mnemonicText i) = some (encode i) := by
  cases i <;> rfl

/-- A `.word` line is no mnemonic, and stands for the value of its digits. -/
theorem parseCommand_word (v : Word) :
    parseCommand (wordDirective ++ hexText v ++ reservedComment) = some v := by
  have hmnemonic (i : Instr) :
      wordDirective ++ hexText v ++ reservedComment ≠ mnemonicText i := by
    cases i <;> exact nofun
  have hdirective :
      (wordDirective ++ hexText v ++ reservedComment).take 8 = wordDirective := rfl
  have hdigits : ((wordDirective ++ hexText v ++ reservedComment).drop 8).takeWhile
      (fun c => c ≠ ' ' && c ≠ ';') = hexText v := takeWhile_hexText v
  rw [parseCommand, if_neg (hmnemonic _), if_neg (hmnemonic _), if_neg (hmnemonic _),
    if_neg (hmnemonic _), if_pos hdirective, hdigits]
  show (hexRun (hexText v) 0).map (BitVec.ofNat 32) = some v
  rw [hexRun_hexText, Option.map_some, BitVec.ofNat_toNat, BitVec.setWidth_eq]

/-! ### Decoding and encoding (R70, R71) -/

theorem decode_append_opcode (i : Instr) (w : BitVec 28) : decode (w ++ opcode i) = .ok i := by
  rw [decode, opField_append, decodeOp_opcode]

theorem encode_eq_append (i : Instr) : encode i = (0 : BitVec 28) ++ opcode i := by
  cases i <;> rfl

theorem decode_encode (i : Instr) : decode (encode i) = .ok i := by
  rw [encode_eq_append, decode_append_opcode]

/-- Settles O2: decoding reads the opcode field alone, a command prints as its mnemonic, and a
reserved word as its eight digits, which `hexRun_hexText` reads back. -/
theorem decodeEncodePrintParseAgree : Obligations.DecodeEncodePrintParseAgree := by
  refine ⟨decode_append_opcode, fun i v hv => decodeOp_ok hv,
    fun i _ => ⟨decode_encode i, encode_eq_append i⟩, fun i v hv => ?command,
    fun e v hv => ⟨(decodeOp_error hv).1, ?reserved⟩⟩
  case command =>
    rw [printCommand, hv]
    exact parseCommand_mnemonicText i
  case reserved =>
    rw [printCommand, hv]
    exact parseCommand_word v

/-- Settles O1: the nine words, evaluated. -/
theorem decodeOfWordsWrittenOut : Obligations.DecodeOfWordsWrittenOut :=
  ⟨rfl, rfl, rfl, rfl, rfl, rfl, rfl, rfl, rfl⟩

end Sys2Proof.Machine

/-!
PROOFS. The rest of 41_checksum.md: the summed stream (R120, R122), the fold as a reduction modulo
0xFFFF (R124), its width (R125), CSUM as arithmetic on the registers (R126), and the properties of
the checksum (R127, R128).
-/

namespace Sys2Proof.Machine

/-! ### The summed stream (R120) -/

/-- Settles O13: the header's parts in their order, each found behind the ones before it. -/
theorem pseudoHeaderLayout : Obligations.PseudoHeaderLayout := by
  intro src dst len p
  refine ⟨pseudoHeader_length src dst len, ?src, ?dst, ?tail, fun hp => ?stream⟩
  case src => simp [pseudoHeader]
  case dst => simp [pseudoHeader]
  case tail =>
    have hparts : pseudoHeader src dst len =
        (src.toList ++ dst.toList) ++
          ([hiByte len, loByte len] ++ [0x00, 0x00, 0x00] ++ [0x3A]) := by
      simp [pseudoHeader]
    rw [hparts, List.drop_left' (by simp)]
    rfl
  case stream => rw [checksum, lengthField_eq hp]

/-! ### The word sum by octet positions (R122) -/

/-- Past the end of the stream an octet counts as 0, so an odd last octet needs no clause. -/
theorem wordSum_eq_sum_pairs : ∀ stream : List Byte,
    wordSum stream =
      ((List.range ((stream.length + 1) / 2)).map fun k =>
        (stream.getD (2 * k) 0).toNat + 256 * (stream.getD (2 * k + 1) 0).toNat).sum
  | [] => rfl
  | [o] => by simp [wordSum]
  | o :: p :: rest => by
    have hpairs : ((o :: p :: rest).length + 1) / 2 = (rest.length + 1) / 2 + 1 := by
      simp only [List.length_cons]
      omega
    rw [wordSum_cons_cons, wordSum_eq_sum_pairs rest, hpairs, List.range_succ_eq_map]
    simp [Function.comp_def, Nat.mul_add]

theorem wordSum_eq_sum_pairs_add_last (stream : List Byte) :
    wordSum stream =
      ((List.range (stream.length / 2)).map fun i =>
        (stream.getD (2 * i) 0).toNat ||| ((stream.getD (2 * i + 1) 0).toNat <<< 8)).sum +
      (if stream.length % 2 = 1 then (stream.getD (stream.length - 1) 0).toNat else 0) := by
  simp only [pair_low_first]
  rw [wordSum_eq_sum_pairs]
  split
  case isTrue hodd =>
    have hpairs : (stream.length + 1) / 2 = stream.length / 2 + 1 := by omega
    have hlast : 2 * (stream.length / 2) = stream.length - 1 := by omega
    have hpast : stream.getD (stream.length - 1 + 1) 0 = 0 :=
      List.getD_eq_default _ _ (by omega)
    rw [hpairs, List.range_succ, List.map_append, List.sum_append, List.map_singleton,
      List.sum_singleton, hlast, hpast]
    rfl
  case isFalse heven =>
    have hpairs : (stream.length + 1) / 2 = stream.length / 2 := by omega
    rw [hpairs, Nat.add_zero]

/-- Settles O14: the sum over pairs, and the header's 38 octets end a pair. -/
theorem wordSumPairsFirstOctetLow : Obligations.WordSumPairsFirstOctetLow :=
  ⟨wordSum_eq_sum_pairs_add_last, fun src dst len p => ⟨pseudoHeader_length src dst len,
    wordSum_append _ p (by rw [pseudoHeader_length])⟩⟩

/-! ### The fold as a reduction modulo 0xFFFF (R124) -/

/-- A turn of the loop keeps a sum modulo 0xFFFF, and keeps it positive. -/
theorem foldSum_of_pos {sum : Nat} (h : 0 < sum) : foldSum sum = 1 + (sum - 1) % 0xFFFF := by
  induction sum using Nat.strong_induction_on with
  | h sum ih =>
    rcases Nat.lt_or_ge 0xFFFF sum with hsum | hsum
    · rw [foldSum_carry hsum, ih _ (foldTurn_lt hsum) (by omega)]
      omega
    · rw [foldSum_eq_self hsum]
      omega

/-- The stream of a checksum: the pseudo-header with the payload's length, then the payload. -/
def checksumStream (src dst : Octets 16) (p : List Byte) : List Byte :=
  pseudoHeader src dst (lengthField p.length) ++ p

theorem checksum_eq (src dst : Octets 16) (p : List Byte) :
    checksum src dst p = onesComplement (checksumStream src dst p) := rfl

/-- The next-header octet of the pseudo-header keeps every word sum from being 0. -/
theorem wordSum_checksumStream_pos (src dst : Octets 16) (p : List Byte) :
    0 < wordSum (checksumStream src dst p) := by
  rw [checksumStream, wordSum_stream]
  omega

theorem checksum_toNat (src dst : Octets 16) (p : List Byte) :
    (checksum src dst p).toNat =
      0xFFFF - (1 + (wordSum (checksumStream src dst p) - 1) % 0xFFFF) := by
  rw [checksum_eq, onesComplement_toNat, foldSum_of_pos (wordSum_checksumStream_pos src dst p)]

theorem checksum_ne (src dst : Octets 16) (p : List Byte) : checksum src dst p ≠ 0xFFFF := by
  intro h
  have hval := checksum_toNat src dst p
  rw [h] at hval
  simp only [BitVec.reduceToNat] at hval
  omega

/-- Settles O16: `foldSum_of_pos`, and a fold is never 0 because no word sum is. -/
theorem foldIsReductionModulo65535 : Obligations.FoldIsReductionModulo65535 := by
  refine ⟨fun sum => ?_, checksum_ne⟩
  split
  case isTrue hzero => rw [hzero, foldSum_eq_self (Nat.zero_le _)]
  case isFalse hpos => exact foldSum_of_pos (Nat.pos_of_ne_zero hpos)

/-! ### The width of the sum (R125) -/

theorem wordSum_stream_le (src dst : Octets 16) (len : Half) (p : List Byte) :
    wordSum (pseudoHeader src dst len ++ p) ≤ 0xFFFF * ((p.length + 39) / 2) := by
  have hle := wordSum_le (pseudoHeader src dst len ++ p)
  have hlen : (pseudoHeader src dst len ++ p).length + 1 = p.length + 39 := by
    rw [List.length_append, pseudoHeader_length]
    omega
  rwa [hlen] at hle

/-- One turn leaves at most 17 bits, the second no carry. -/
theorem foldSteps_two {sum : Nat} (h : sum < 2 ^ 32) : foldSteps 2 sum = foldSum sum := by
  rcases Nat.lt_or_ge 0xFFFF sum with hsum | hsum
  · rw [foldSteps_step 1 _ hsum, foldSum_carry hsum]
    rcases Nat.lt_or_ge 0xFFFF (sum % 0x10000 + sum / 0x10000) with hturn | hturn
    · rw [foldSteps_step 0 _ hturn, foldSum_carry hturn, foldSteps, foldSum_eq_self (by omega)]
    · rw [foldSteps_done _ _ hturn, foldSum_eq_self hturn]
  · rw [foldSteps_done _ _ hsum, foldSum_eq_self hsum]

/-- Settles O17: both bounds are `wordSum_stream_le` at the greatest length. -/
theorem accumulatorOf32BitsSuffices : Obligations.AccumulatorOf32BitsSuffices := by
  intro src dst p
  have hle := wordSum_stream_le src dst (BitVec.ofNat 16 p.length) p
  have hsmall (hp : p.length ≤ 64) :
      wordSum (pseudoHeader src dst (BitVec.ofNat 16 p.length) ++ p) < 2 ^ 22 := by omega
  exact ⟨fun hp => by omega, fun hp => ⟨hsmall hp,
    foldSteps_two ((hsmall hp).trans (by decide))⟩⟩

/-! ### CSUM as arithmetic on the registers (R126) -/

theorem payload_getD (s : State) (h : s.plen.toNat ≤ 64) (k : Nat) :
    (payload s).getD k 0 = if k < s.plen.toNat then oct s.pbuf k else 0 := by
  rw [payload_eq_take s h, ← toList_getD]
  simp only [List.getD_eq_getElem?_getD, List.getElem?_take]
  split <;> rfl

theorem wordSum_address (A : Octets 16) :
    wordSum A.toList = ((List.range 8).map fun k =>
      (oct A (2 * k)).toNat + 256 * (oct A (2 * k + 1)).toNat).sum := by
  rw [wordSum_eq_sum_pairs, Vector.length_toList]
  simp only [toList_getD]

theorem wordSum_payload (s : State) (h : s.plen.toNat ≤ 64) :
    wordSum (payload s) = ((List.range ((s.plen.toNat + 1) / 2)).map fun k =>
      (oct s.pbuf (2 * k)).toNat +
        256 * (if 2 * k + 1 < s.plen.toNat then (oct s.pbuf (2 * k + 1)).toNat else 0)).sum := by
  rw [wordSum_eq_sum_pairs, payload_length]
  refine congrArg List.sum (List.map_congr_left fun k hk => ?_)
  have hlow : 2 * k < s.plen.toNat := by
    rw [List.mem_range] at hk
    omega
  rw [payload_getD s h, payload_getD s h, if_pos hlow]
  split <;> rfl

/-- The sum of CSUM's stream, part by part. -/
theorem wordSum_csum (s : State) (h : s.plen.toNat ≤ 64) :
    wordSum (checksumStream s.srcIp s.dstIp (payload s)) =
      wordSum s.srcIp.toList + wordSum s.dstIp.toList + 256 * s.plen.toNat + 0x3A00 +
        wordSum (payload s) := by
  have hlen : lengthField (payload s).length = s.plen := by
    rw [payload_length, lengthField_eq (by omega), BitVec.ofNat_toNat, BitVec.setWidth_eq]
  rw [checksumStream, hlen, wordSum_stream]
  omega

/-- Settles O18: `checksum_toNat` with the sum of the stream written out by its parts. -/
theorem csumOfTheRegisters : Obligations.CsumOfTheRegisters := by
  intro s hplen
  refine ⟨_, exec_csum s, rfl, fun total htotal => ?_⟩
  rw [← wordSum_address, ← wordSum_address, ← wordSum_payload s hplen,
    ← wordSum_csum s hplen] at htotal
  rw [htotal]
  exact checksum_toNat _ _ _

/-! ### A checksum in its own field (R127) -/

theorem wordSum_with_field {before : List Byte} (h : before.length % 2 = 0) (lo hi : Byte)
    (after : List Byte) :
    wordSum (before ++ [lo, hi] ++ after) =
      wordSum before + (lo.toNat + 256 * hi.toNat) + wordSum after := by
  rw [List.append_assoc, wordSum_append _ _ h, List.cons_append, List.cons_append,
    List.nil_append, wordSum_cons_cons]
  omega

/-- A field of two octets adds its value to the sum: the length, and so the header, stay. -/
theorem wordSum_checksumStream_field (src dst : Octets 16) {before : List Byte}
    (h : before.length % 2 = 0) (lo hi : Byte) (after : List Byte) :
    wordSum (checksumStream src dst (before ++ [lo, hi] ++ after)) =
      wordSum (checksumStream src dst (before ++ [0, 0] ++ after)) +
        (lo.toNat + 256 * hi.toNat) := by
  have hlen : (before ++ [lo, hi] ++ after).length = (before ++ [0, 0] ++ after).length := by
    simp only [List.length_append, List.length_cons]
  have hzero : (0 : Byte).toNat + 256 * (0 : Byte).toNat = 0 := rfl
  rw [checksumStream, checksumStream, hlen, wordSum_stream, wordSum_stream,
    wordSum_with_field h, wordSum_with_field h, hzero]
  omega

/-- A checksum put low octet first into its zeroed field makes the checksum 0. -/
theorem checksum_with_own_checksum (src dst : Octets 16) {before : List Byte}
    (h : before.length % 2 = 0) (after : List Byte) {c : Half}
    (hc : c = checksum src dst (before ++ [0, 0] ++ after)) :
    checksum src dst (before ++ [loByte c, hiByte c] ++ after) = 0 := by
  have hpos := wordSum_checksumStream_pos src dst (before ++ [0, 0] ++ after)
  have hval := checksum_toNat src dst (before ++ [0, 0] ++ after)
  apply BitVec.eq_of_toNat_eq
  rw [checksum_toNat, wordSum_checksumStream_field src dst h, loByte_toNat, hiByte_toNat, hc, hval]
  show _ = 0
  omega

/-- Settles O20: adding the complement of the fold makes the sum a multiple of 0xFFFF. -/
theorem checksumSelfConsistency : Obligations.ChecksumSelfConsistency :=
  fun src dst _ after h => checksum_with_own_checksum src dst h after rfl

/-! ### The big-endian computation (R128) -/

/-- The stream of the usual computation, over the 40-octet pseudo-header. -/
def bigEndianStream (src dst : Octets 16) (p : List Byte) : List Byte :=
  pseudoHeader40 src dst ((lengthField p.length).zeroExtend 32) ++ p

theorem byteOf_zeroExtend (h : Half) :
    byteOf (h.zeroExtend 32) 0 = 0 ∧ byteOf (h.zeroExtend 32) 1 = 0 ∧
      byteOf (h.zeroExtend 32) 2 = hiByte h ∧ byteOf (h.zeroExtend 32) 3 = loByte h := by
  have hlt := h.isLt
  have hword : (h.zeroExtend 32).toNat = h.toNat := by
    rw [BitVec.toNat_setWidth, Nat.mod_eq_of_lt (by omega)]
  have hzero : (0 : Byte).toNat = 0 := rfl
  refine ⟨?_, ?_, ?_, ?_⟩ <;>
  · apply BitVec.eq_of_toNat_eq
    rw [byteOf_toNat, hword]
    simp only [hiByte_toNat, loByte_toNat, hzero]
    omega

/-- The two octets more of the longer pseudo-header are zeros, so the word sum is the same. -/
theorem wordSum_bigEndianStream (src dst : Octets 16) (p : List Byte) :
    wordSum (bigEndianStream src dst p) = wordSum (checksumStream src dst p) := by
  obtain ⟨h0, h1, h2, h3⟩ := byteOf_zeroExtend (lengthField p.length)
  rw [checksumStream, wordSum_stream, bigEndianStream, pseudoHeader40, h0, h1, h2, h3]
  simp only [List.append_assoc]
  rw [wordSum_append _ _ (by simp), wordSum_append _ _ (by simp)]
  simp only [List.cons_append, List.nil_append, wordSum_cons_cons, hiByte_toNat, loByte_toNat,
    BitVec.reduceToNat]
  omega

theorem wordSumBigEndian_pos {stream : List Byte} (h : 0 < wordSum stream) :
    0 < wordSumBigEndian stream := by
  induction stream using wordSum.induct with
  | case1 => simp [wordSum] at h
  | case2 o =>
    simp only [wordSum, wordSumBigEndian, Nat.shiftLeft_eq] at *
    omega
  | case3 o p rest ih =>
    rw [wordSum_cons_cons] at h
    rw [wordSumBigEndian_cons_cons]
    by_cases hrest : 0 < wordSum rest
    · have := ih hrest
      omega
    · omega

/-- The fold of the big-endian sum is the fold of the other with its two octets exchanged. -/
theorem foldSum_wordSumBigEndian {stream : List Byte} (h : 0 < wordSum stream) :
    foldSum (wordSumBigEndian stream) =
      256 * (foldSum (wordSum stream) % 256) + foldSum (wordSum stream) / 256 := by
  have hmod := wordSumBigEndian_mod stream
  have hpos := wordSumBigEndian_pos h
  rw [foldSum_of_pos h, foldSum_of_pos hpos]
  omega

theorem checksumBigEndian_toNat (src dst : Octets 16) (p : List Byte) :
    (checksumBigEndian src dst p).toNat =
      0xFFFF - foldSum (wordSumBigEndian (bigEndianStream src dst p)) := by
  have hfits : foldSum (wordSumBigEndian (bigEndianStream src dst p)) < 2 ^ 16 :=
    Nat.lt_succ_of_le (foldSum_le _)
  show (~~~(BitVec.ofNat 16 (foldSum (wordSumBigEndian (bigEndianStream src dst p))))).toNat = _
  rw [BitVec.toNat_not, BitVec.toNat_ofNat, Nat.mod_eq_of_lt hfits]

/-- The octets of a complement are the complements of the octets. -/
theorem complement_octets {f : Nat} (h : f ≤ 0xFFFF) :
    (0xFFFF - f) / 256 = 0xFF - f / 256 ∧ (0xFFFF - f) % 256 = 0xFF - f % 256 := by
  omega

/-- Settles O21: the two folds have their octets exchanged, and so have their complements. -/
theorem wireEquivalenceWithBigEndian : Obligations.WireEquivalenceWithBigEndian := by
  intro src dst p _
  have hpos := wordSum_checksumStream_pos src dst p
  have hswap := foldSum_wordSumBigEndian (hpos.trans_eq (wordSum_bigEndianStream src dst p).symm)
  rw [wordSum_bigEndianStream] at hswap
  obtain ⟨hhi, hlo⟩ := complement_octets (foldSum_le (wordSum (checksumStream src dst p)))
  obtain ⟨hhi', hlo'⟩ := complement_octets
    (foldSum_le (wordSumBigEndian (bigEndianStream src dst p)))
  show loByte _ = hiByte _ ∧ hiByte _ = loByte _
  constructor <;>
  · apply BitVec.eq_of_toNat_eq
    rw [hiByte_toNat, loByte_toNat, checksumBigEndian_toNat, checksum_eq, onesComplement_toNat]
    omega

end Sys2Proof.Machine

/-!
PROOFS. The rest of 40_address_encoder.md: the reference Decode of an encoded address (R108, R109),
and the worked example.
-/

namespace Sys2Proof.Machine

/-! ### Decode under Profile A (R108, R109) -/

/-- Both profiles accept the prefix an address was encoded with. -/
theorem prefixMatches_encodeAddress (profile : Profile) (pre : Octets 8) (x y : Half)
    (r g b a : Byte) (code : BitVec 2) :
    prefixMatches (2 * prefixSegments profile) pre
      (encodeAddress profile pre x y r g b a code) = true :=
  (prefixMatches_iff _ _ _).2 fun _ hk =>
    oct_encodeAddress_prefix profile pre x y r g b a code hk

/-- The size tag stands in the upper four bits of segment 3, over an x of 12 bits. -/
theorem sizeOfCode_segment3 {x : Half} (size : SizeTag) (hx : x.toNat ≤ 0x0FFF) :
    sizeOfCode ((x ||| ((sizeCode size).zeroExtend 16 <<< 12)).extractLsb' 12 4) = some size := by
  have hcode : (x ||| ((sizeCode size).zeroExtend 16 <<< 12)).extractLsb' 12 4 =
      (sizeCode size).zeroExtend 4 := by
    apply BitVec.eq_of_toNat_eq
    rw [BitVec.extractLsb'_toNat, segment3_toNat x _ hx, Nat.shiftRight_eq_div_pow,
      BitVec.toNat_setWidth]
    omega
  rw [hcode]
  cases size <;> rfl

/-- An x of 12 bits comes back from under the size code. -/
theorem zeroExtend_segment3 {x : Half} (code : BitVec 2) (hx : x.toNat ≤ 0x0FFF) :
    ((x ||| (code.zeroExtend 16 <<< 12)).extractLsb' 0 12).zeroExtend 16 = x := by
  apply BitVec.eq_of_toNat_eq
  rw [BitVec.toNat_setWidth, BitVec.extractLsb'_toNat, segment3_toNat x _ hx,
    Nat.shiftRight_eq_div_pow]
  omega

theorem not_channel_above_byte (c : Byte) : ¬ 0xFF < (c.zeroExtend 16).toNat := by
  rw [zeroExtend_byte_toNat]
  have := c.isLt
  omega

/-- With x in range, Decode gives back every operand that Profile A encodes. -/
theorem decodeAddress_encodeAddress_a (pre : Octets 8) {x : Half} (y : Half) (r g b a : Byte)
    (size : SizeTag) (hx : x.toNat ≤ 0x0FFF) :
    decodeAddress .a pre (encodeAddress .a pre x y r g b a (sizeCode size)) =
      some { x := x, y := y, r := r, g := g, b := b, a := none, size := some size } := by
  have hprefix : prefixMatches 6 pre (encodeAddress .a pre x y r g b a (sizeCode size)) = true :=
    prefixMatches_encodeAddress .a pre x y r g b a (sizeCode size)
  have hseg := segment_encodeAddress .a pre x y r g b a (sizeCode size)
  generalize encodeAddress .a pre x y r g b a (sizeCode size) = A at hprefix hseg ⊢
  have h3 : segment A 3 = x ||| ((sizeCode size).zeroExtend 16 <<< 12) := hseg 3
  have h4 : segment A 4 = y := hseg 4
  have h5 : segment A 5 = r.zeroExtend 16 := hseg 5
  have h6 : segment A 6 = g.zeroExtend 16 := hseg 6
  have h7 : segment A 7 = b.zeroExtend 16 := hseg 7
  rw [decodeAddress, if_pos hprefix, h3, h4, h5, h6, h7, sizeOfCode_segment3 size hx]
  simp only [not_channel_above_byte, or_self, if_false, zeroExtend_segment3 _ hx,
    loByte_zeroExtend]

/-- Under Profile A, Decode gives no x beyond 12 bits, whatever the address. -/
theorem decodeAddress_a_x_le {pre : Octets 8} {A : Octets 16} {d : Decoded}
    (h : decodeAddress .a pre A = some d) : d.x.toNat ≤ 0x0FFF := by
  have hlow : (((segment A 3).extractLsb' 0 12).zeroExtend 16).toNat ≤ 0x0FFF := by
    rw [BitVec.toNat_setWidth, BitVec.extractLsb'_toNat]
    omega
  simp only [decodeAddress] at h
  split at h
  case isFalse => cases h
  case isTrue =>
    split at h
    · cases h
    · split at h <;> cases h
      exact hlow

/-- Settles O9: an x in range is decoded, and no other x is ever decoded; XRANGE says which. -/
theorem encodeWarnsExactlyWhenDecodeFails : Obligations.EncodeWarnsExactlyWhenDecodeFails := by
  intro s hprofile hxrange
  refine ⟨_, exec_encode s, ?_⟩
  rw [complete_xrange, encodeBody_xrange_of_profile_a hprofile, hxrange, Bool.false_or,
    decide_eq_false_iff_not, Nat.not_lt, complete_dstIp, encodeBody_dstIp, hprofile]
  exact ⟨decodeAddress_encodeAddress_a s.prefixes (opY s) (opR s) (opG s) (opB s) (opA s)
    s.pixelSize, decodeAddress_a_x_le⟩

/-! ### Decode under Profile B (R108, R109) -/

theorem decodeAddress_encodeAddress_b (pre : Octets 8) (x y : Half) (r g b a : Byte)
    (code : BitVec 2) :
    decodeAddress .b pre (encodeAddress .b pre x y r g b a code) =
      some { x := x, y := y, r := r, g := g, b := b, a := some a, size := none } := by
  have hprefix : prefixMatches 8 pre (encodeAddress .b pre x y r g b a code) = true :=
    prefixMatches_encodeAddress .b pre x y r g b a code
  have hseg := segment_encodeAddress .b pre x y r g b a code
  generalize encodeAddress .b pre x y r g b a code = A at hprefix hseg ⊢
  have h4 : segment A 4 = x := hseg 4
  have h5 : segment A 5 = y := hseg 5
  have h6 : segment A 6 = half b g := hseg 6
  have h7 : segment A 7 = half r a := hseg 7
  rw [decodeAddress, if_pos hprefix, h4, h5, h6, h7]
  simp only [hiByte_half, loByte_half]

/-- An address under Profile B fixes its prefix: all eight octets stand in it. -/
theorem prefix_of_prefixMatches_b {pre pre' : Octets 8} {x y : Half} {r g b a : Byte}
    {code : BitVec 2}
    (h : prefixMatches 8 pre' (encodeAddress .b pre x y r g b a code) = true) : pre = pre' := by
  refine Vector.ext fun k hk => ?_
  rw [← oct_of_lt pre hk, ← oct_of_lt pre' hk, ← (prefixMatches_iff _ _ _).1 h k hk]
  exact (oct_encodeAddress_prefix .b pre x y r g b a code hk).symm

/-- Settles O10: the segments come back whole, and the prefix is compared in all its octets. -/
theorem profileBRoundTrip : Obligations.ProfileBRoundTrip := by
  intro pre pre' x y r g b a code
  refine ⟨decodeAddress_encodeAddress_b pre x y r g b a code, fun hne => ?_⟩
  rw [decodeAddress, if_neg fun h => hne (prefix_of_prefixMatches_b h)]

/-- Settles O54: the sixteen octets, evaluated. -/
theorem workedExampleAddress : Obligations.WorkedExampleAddress := rfl

end Sys2Proof.Machine

/-!
PROOFS. The rest of 42_framer.md: ENCODE_BUILD (R148), and a receiver's check of a built frame
(R145 with 41_checksum.md R127).
-/

namespace Sys2Proof.Machine

/-! ### ENCODE_BUILD (R148) -/

/-- Settles O23: the body of ENCODE and the body of BUILD do not look at BUSY and DONE, which
`complete` sets. -/
theorem encodeBuildIsEncodeThenBuild : Obligations.EncodeBuildIsEncodeThenBuild :=
  fun s => ⟨_, _, exec_encode s, exec_build _, exec_encodeBuild s⟩

/-- The frame of ENCODE_BUILD: the results of both bodies and the two completion flags. -/
theorem complete_buildBody_encodeBody_eq (s : State) :
    complete (buildBody (encodeBody s)) =
      { s with
        dstIp := (encodeBody s).dstIp
        fbuf := (buildBody (encodeBody s)).fbuf
        flen := (buildBody (encodeBody s)).flen
        csum := (buildBody (encodeBody s)).csum
        xrange := (encodeBody s).xrange
        busy := false
        done := true } := rfl

theorem sizeCode_eq (size : SizeTag) : sizeCode size = if size = .area2x2 then 2 else 1 := by
  cases size <;> rfl

/-- Settles O24: BUILD's frame at the state that the body of ENCODE leaves. -/
theorem encodeBuildFramesTheNewAddress : Obligations.EncodeBuildFramesTheNewAddress := by
  intro s
  refine ⟨_, exec_encodeBuild s, complete_buildBody_encodeBody_eq s, ?address,
    buildBody_flen_toNat (encodeBody s), octetRange_buildBody_srcIp (encodeBody s),
    octetRange_buildBody_dstIp (encodeBody s), octetRange_buildBody_icmp (encodeBody s),
    buildBody_csum (encodeBody s)⟩
  case address =>
    rw [← sizeCode_eq]
    exact encodeBody_dstIp s

/-! ### A receiver's check (R145 with R127) -/

/-- The message that stands in a built frame has its own checksum in it. -/
theorem checksum_builtMessage (s : State) : checksum s.srcIp s.dstIp (builtMessage s) = 0 :=
  checksum_with_own_checksum s.srcIp s.dstIp (before := [0x80, 0x00]) rfl
    [0x00, 0x69, 0x00, 0x01] (buildBody_csum s)

/-- With the addresses and the message read back from FBUF, the check succeeds. -/
theorem checksum_buildBody_fbuf (s : State) {src dst : Octets 16}
    (hsrc : src.toList =
      octetRange (buildBody s).fbuf (frameBase s.linkEn + 8) (frameBase s.linkEn + 24))
    (hdst : dst.toList =
      octetRange (buildBody s).fbuf (frameBase s.linkEn + 24) (frameBase s.linkEn + 40)) :
    checksum src dst
      (octetRange (buildBody s).fbuf (frameBase s.linkEn + 40) (frameBase s.linkEn + 48)) = 0 := by
  rw [octetRange_buildBody_srcIp, Vector.toList_inj] at hsrc
  rw [octetRange_buildBody_dstIp, Vector.toList_inj] at hdst
  rw [hsrc, hdst, octetRange_buildBody_icmp, checksum_builtMessage]

/-- Settles O25: `checksum_buildBody_fbuf` at the state whose body of BUILD each command runs. -/
theorem builtFrameVerifies : Obligations.BuiltFrameVerifies := by
  intro s i hi
  rcases hi with rfl | rfl
  · exact ⟨_, exec_build s, fun _ _ => checksum_buildBody_fbuf s⟩
  · exact ⟨_, exec_encodeBuild s, fun _ _ => checksum_buildBody_fbuf (encodeBody s)⟩

end Sys2Proof.Machine

/-!
PROOFS. What the four commands read and write: 30_encoding.md R73, 60_exceptions.md R160.
-/

namespace Sys2Proof.Machine

/-! ### What a command writes (R73) -/

theorem encodeBody_xrange_eq_ite (s : State) :
    (encodeBody s).xrange = if s.profile = .a then (encodeBody s).xrange else s.xrange := by
  split
  case isTrue => rfl
  case isFalse hprofile =>
    have hb : s.profile = .b := by
      cases h : s.profile with
      | a => exact absurd h hprofile
      | b => rfl
    exact encodeBody_xrange_of_profile_b hb

/-- Settles O12: each command is one record update; XRANGE drops out under Profile B. -/
theorem commandsWriteOnlyTheirResults : Obligations.CommandsWriteOnlyTheirResults := by
  intro s
  refine ⟨⟨_, exec_encode s, ?encode⟩, ⟨_, exec_csum s, rfl⟩,
    ⟨_, exec_build s, complete_buildBody_eq s⟩, ⟨_, exec_encodeBuild s, ?encodeBuild⟩⟩
  case encode =>
    rw [complete_xrange, ← encodeBody_xrange_eq_ite]
    exact complete_encodeBody_eq s
  case encodeBuild =>
    rw [complete_xrange, buildBody_xrange, ← encodeBody_xrange_eq_ite]
    exact complete_buildBody_encodeBody_eq s

/-- Settles O5: no arm of `exec` stops, and none but `complete` touches a flag or PENDING_OP. -/
theorem everyCommandCompletes : Obligations.EveryCommandCompletes := by
  intro i s
  cases i with
  | encode => exact ⟨_, exec_encode s, rfl, rfl, rfl, rfl, rfl⟩
  | csum => exact ⟨_, exec_csum s, rfl, rfl, rfl, rfl, rfl⟩
  | build => exact ⟨_, exec_build s, rfl, rfl, rfl, rfl, rfl⟩
  | encodeBuild => exact ⟨_, exec_encodeBuild s, rfl, rfl, rfl, rfl, rfl⟩

/-! ### What a command reads (R73) -/

theorem extractLsb'_congr {v w : Word} {start : Nat} (len : Nat)
    (h : ∀ k, start ≤ k → v.getLsbD k = w.getLsbD k) :
    v.extractLsb' start len = w.extractLsb' start len := by
  apply BitVec.eq_of_getLsbD_eq
  intro i hi
  rw [BitVec.getLsbD_extractLsb', BitVec.getLsbD_extractLsb', h _ (Nat.le_add_right start i)]

/-- An address depends on the prefix octets its profile has, on alpha only under Profile B, and on
the size code only under Profile A. -/
theorem encodeAddress_congr {profile : Profile} {pre pre' : Octets 8} (x y : Half) (r g b : Byte)
    {a a' : Byte} {code code' : BitVec 2}
    (hpre : ∀ k, k < 2 * prefixSegments profile → oct pre k = oct pre' k)
    (ha : profile = .b → a = a') (hcode : profile = .a → code = code') :
    encodeAddress profile pre x y r g b a code = encodeAddress profile pre' x y r g b a' code' := by
  have hle : prefixSegments profile ≤ 4 := by cases profile <;> decide
  have hget (k : Nat) (hk : k < 2 * prefixSegments profile) :
      pre[k]'(by omega) = pre'[k]'(by omega) := by
    rw [← oct_of_lt, ← oct_of_lt, hpre k hk]
  cases profile with
  | a =>
    have h0 := hget 0 (by decide)
    have h1 := hget 1 (by decide)
    have h2 := hget 2 (by decide)
    have h3 := hget 3 (by decide)
    have h4 := hget 4 (by decide)
    have h5 := hget 5 (by decide)
    simp only [encodeAddress, encodeSegments, h0, h1, h2, h3, h4, h5, hcode rfl]
  | b =>
    have hpre' : pre = pre' := Vector.ext hget
    rw [hpre', ha rfl]
    rfl

/-- Two states that agree on the operands of ENCODE. -/
structure SameEncodeOperands (s s' : State) : Prop where
  profile : s.profile = s'.profile
  prefixes : ∀ k, k < (if s.profile = .a then 6 else 8) → oct s.prefixes k = oct s'.prefixes k
  pixelXy : s.pixelXy = s'.pixelXy
  pixelSize : s.profile = .a → s.pixelSize = s'.pixelSize
  pixelRgba : ∀ k, (if s.profile = .a then 8 else 0) ≤ k →
    s.pixelRgba.getLsbD k = s'.pixelRgba.getLsbD k

theorem two_mul_prefixSegments (profile : Profile) :
    2 * prefixSegments profile = if profile = .a then 6 else 8 := by
  cases profile <;> rfl

theorem SameEncodeOperands.dstIp {s s' : State} (h : SameEncodeOperands s s') :
    (encodeBody s).dstIp = (encodeBody s').dstIp := by
  have hbits (k : Nat) (hk : 8 ≤ k) : s.pixelRgba.getLsbD k = s'.pixelRgba.getLsbD k :=
    h.pixelRgba k (by split <;> omega)
  have hx : opX s = opX s' := congrArg (BitVec.extractLsb' 0 16) h.pixelXy
  have hy : opY s = opY s' := congrArg (BitVec.extractLsb' 16 16) h.pixelXy
  have hr : opR s = opR s' := extractLsb'_congr 8 fun k hk => hbits k (by omega)
  have hg : opG s = opG s' := extractLsb'_congr 8 fun k hk => hbits k (by omega)
  have hb : opB s = opB s' := extractLsb'_congr 8 hbits
  have ha (hprofile : s.profile = .b) : opA s = opA s' :=
    extractLsb'_congr 8 fun k hk => h.pixelRgba k (by simp [hprofile])
  rw [encodeBody_dstIp, encodeBody_dstIp, hx, hy, hr, hg, hb, ← h.profile]
  refine encodeAddress_congr _ _ _ _ _ (fun k hk => h.prefixes k ?_) ha fun hprofile => ?_
  · rwa [← two_mul_prefixSegments]
  · rw [h.pixelSize hprofile]

theorem SameEncodeOperands.xrange {s s' : State} (h : SameEncodeOperands s s')
    (hx : s.xrange = s'.xrange) : (encodeBody s).xrange = (encodeBody s').xrange := by
  rw [encodeBody_xrange_eq, encodeBody_xrange_eq, hx, h.profile, h.pixelXy]

/-- A frame holds the MACs only with a link header. -/
theorem frameOctets_congr {link : Bool} {smac smac' dmac dmac' : Octets 6} (src dst : Octets 16)
    (h : link = true → smac = smac' ∧ dmac = dmac') :
    frameOctets link smac dmac src dst = frameOctets link smac' dmac' src dst := by
  cases link with
  | true =>
    obtain ⟨rfl, rfl⟩ := h rfl
    rfl
  | false => rfl

theorem buildBody_congr {s s' : State} (hlink : s.linkEn = s'.linkEn)
    (hmacs : s.linkEn = true → s.srcMac = s'.srcMac ∧ s.dstMac = s'.dstMac)
    (hsrc : s.srcIp = s'.srcIp) (hdst : s.dstIp = s'.dstIp) :
    (buildBody s).fbuf = (buildBody s').fbuf ∧ (buildBody s).flen = (buildBody s').flen ∧
      (buildBody s).csum = (buildBody s').csum := by
  have hframe : frameOctets s.linkEn s.srcMac s.dstMac s.srcIp s.dstIp =
      frameOctets s'.linkEn s'.srcMac s'.dstMac s'.srcIp s'.dstIp := by
    rw [frameOctets_congr s.srcIp s.dstIp hmacs, hlink, hsrc, hdst]
  refine ⟨?_, ?_, ?_⟩
  · rw [buildBody_fbuf, buildBody_fbuf, hframe]
  · rw [buildBody_flen, buildBody_flen, hframe]
  · rw [buildBody_csum, buildBody_csum, hsrc, hdst]

/-- Within the buffer the payload is octets of PBUF, and no free value enters. -/
theorem payload_congr {s s' : State} (hplen : s.plen = s'.plen) (hle : s.plen.toNat ≤ 64)
    (hpbuf : ∀ k, k < s.plen.toNat → oct s.pbuf k = oct s'.pbuf k) : payload s = payload s' := by
  rw [payload, payload, ← hplen]
  refine List.map_congr_left fun k hk => ?_
  rw [List.mem_range] at hk
  have hk64 : k < Config.pPbufBytes := by
    show k < 64
    omega
  rw [payloadOctet, payloadOctet, dif_pos hk64, dif_pos hk64, ← oct_of_lt s.pbuf hk64,
    ← oct_of_lt s'.pbuf hk64, hpbuf k hk]

/-- Settles O11: the address by `SameEncodeOperands`, the frame by `buildBody_congr`, the payload by
`payload_congr`. -/
theorem commandsReadOnlyTheirOperands : Obligations.CommandsReadOnlyTheirOperands := by
  refine ⟨fun s s' hprofile hprefixes hxy hsize hrgba => ⟨?encode, ?encodeBuild⟩,
    fun s s' hsrc hdst hplen hle hpbuf => ?csum, fun s s' hlink hmacs hsrc hdst => ?build⟩
  case encode =>
    have hsame : SameEncodeOperands s s' := ⟨hprofile, hprefixes, hxy, hsize, hrgba⟩
    exact ⟨_, _, exec_encode s, exec_encode s', hsame.dstIp, hsame.xrange⟩
  case encodeBuild =>
    intro hlink hmacs hsrc
    have hsame : SameEncodeOperands s s' := ⟨hprofile, hprefixes, hxy, hsize, hrgba⟩
    obtain ⟨hfbuf, hflen, hcsum⟩ :=
      buildBody_congr (s := encodeBody s) (s' := encodeBody s') hlink hmacs hsrc hsame.dstIp
    exact ⟨_, _, exec_encodeBuild s, exec_encodeBuild s', hsame.dstIp, hfbuf, hflen, hcsum,
      hsame.xrange⟩
  case csum =>
    refine ⟨_, _, exec_csum s, exec_csum s', ?_⟩
    show checksum s.srcIp s.dstIp (payload s) = checksum s'.srcIp s'.dstIp (payload s')
    rw [hsrc, hdst, payload_congr hplen hle hpbuf]
  case build =>
    exact ⟨_, _, exec_build s, exec_build s', buildBody_congr hlink hmacs hsrc hdst⟩

end Sys2Proof.Machine

/-!
PROOFS. The legal states: reset is one, and every step keeps them (10_state.md R23, R38,
60_exceptions.md R161, 42_framer.md R146, 41_checksum.md R124).
-/

namespace Sys2Proof.Machine

/-! ### Reset -/

/-- Settles O42: ERR and BUSY are 0, FBUF is empty and CSUM 0. -/
theorem resetIsLegal : Obligations.ResetIsLegal where
  errcode := ⟨fun _ => rfl, nofun⟩
  pending := nofun
  frame := .inl ⟨rfl, rfl⟩
  csum := by decide

theorem takeReset_legal (s : State) : Legal (takeReset s) :=
  ⟨resetIsLegal.errcode, resetIsLegal.pending, resetIsLegal.frame, resetIsLegal.csum⟩

/-! ### The engine's step -/

theorem buildBody_flen_eq (s : State) : (buildBody s).flen = if s.linkEn then 62 else 48 := by
  rw [buildBody_flen, frameOctets_length]
  cases s.linkEn <;> rfl

theorem buildBody_holdsOneFrame (s : State) : holdsOneFrame (buildBody s) :=
  .inr ⟨_, _, _, _, _, buildBody_fbuf s, buildBody_flen_eq s⟩

/-- A completed command has nothing pending; the frame and the checksum are those of its body. -/
theorem exec_keepsLegal {i : Instr} {s t : State} (hs : Legal s) (h : exec i s = .next t) :
    Legal t := by
  cases i <;> cases h
  case encode => exact ⟨hs.errcode, nofun, hs.frame, hs.csum⟩
  case csum => exact ⟨hs.errcode, nofun, hs.frame, checksum_ne _ _ _⟩
  case build => exact ⟨hs.errcode, nofun, buildBody_holdsOneFrame s, checksum_ne _ _ _⟩
  case encodeBuild =>
    exact ⟨hs.errcode, nofun, buildBody_holdsOneFrame (encodeBody s), checksum_ne _ _ _⟩

/-! ### The host's step -/

theorem rejectCode_range (c : RejectCode) :
    1 ≤ (rejectCode c).toNat ∧ (rejectCode c).toNat ≤ 4 := by
  cases c <;> decide

theorem reject_errcodeLegal {s : State} (hs : errcodeLegal s) (c : RejectCode) :
    errcodeLegal (reject s c) := by
  refine ⟨fun h => ?_, fun _ => ?_⟩
  · rw [reject_err] at h
    cases h
  · rw [reject_errcode]
    split
    case isTrue herr => exact hs.2 herr
    case isFalse => exact rejectCode_range c

theorem reject_legal {s : State} (hs : Legal s) (c : RejectCode) : Legal (reject s c) := by
  have herrcode := reject_errcodeLegal hs.errcode c
  rw [reject_eq] at herrcode ⊢
  exact ⟨herrcode, hs.pending, hs.frame, hs.csum⟩

theorem clearDone_legal {s : State} (hs : Legal s) : Legal (clearDone s) :=
  ⟨hs.errcode, fun hbusy => ⟨rfl, (hs.pending hbusy).2⟩, hs.frame, hs.csum⟩

/-- A W1C of ERR clears ERRCODE with it. -/
theorem writeStatus_errcodeLegal {s : State} (hs : errcodeLegal s) (v : Word) :
    errcodeLegal (writeStatus s v) := by
  obtain ⟨hzero, hrange⟩ := hs
  unfold errcodeLegal
  rw [writeStatus_err, writeStatus_errcode]
  cases v[2] with
  | true => exact ⟨fun _ => rfl, by simp⟩
  | false => simpa using ⟨hzero, hrange⟩

theorem writeStatus_legal {s : State} (hs : Legal s) (v : Word) : Legal (writeStatus s v) := by
  refine ⟨writeStatus_errcodeLegal hs.errcode v, fun hbusy => ?_, hs.frame, hs.csum⟩
  obtain ⟨hdone, hinstr⟩ := hs.pending hbusy
  exact ⟨by rw [writeStatus_done, hdone, Bool.false_and], hinstr⟩

/-- What the checks at issue let through is what `pendingLegal` asks for. -/
theorem issueCommand_legal {s : State} (hs : Legal s) (v : Word) : Legal (issueCommand s v) := by
  rcases issueCommand_cases s v with ⟨c, h⟩ | ⟨-, h, i, hdecode, hplen⟩ <;> rw [h]
  · exact reject_legal (clearDone_legal hs) c
  · exact ⟨hs.errcode, fun _ => ⟨rfl, i, hdecode, hplen⟩, hs.frame, hs.csum⟩

theorem writeReg_legal {s : State} (hs : Legal s) (hbusy : s.busy = false) (r : Reg) (v : Word) :
    Legal (writeReg s r v) where
  errcode := by
    rw [errcodeLegal, writeReg_err, writeReg_errcode]
    exact hs.errcode
  pending := by
    rw [pendingLegal, writeReg_busy, hbusy]
    exact nofun
  frame := by
    rw [holdsOneFrame, writeReg_fbuf, writeReg_flen]
    exact hs.frame
  csum := by
    rw [writeReg_csum]
    exact hs.csum

theorem writeWord_legal {s : State} (hs : Legal s) (off : Nat) (v : Word) :
    Legal (writeWord s off v) := by
  rcases writeWord_cases s off v with
    ⟨h, -⟩ | ⟨-, h⟩ | ⟨-, h⟩ | ⟨-, h⟩ | ⟨hbusy, r, -, -, -, -, h⟩ <;> rw [h]
  · exact hs
  · exact writeStatus_legal hs v
  · exact issueCommand_legal hs v
  · exact reject_legal hs .writeBusy
  · exact writeReg_legal hs hbusy r v

/-- The model's own fields do not enter. -/
theorem Legal.of_sameBlock {s t : State} (hs : Legal s) (h : sameBlock s t) : Legal t := by
  rw [sameBlock] at h
  rw [h]
  exact ⟨hs.errcode, hs.pending, hs.frame, hs.csum⟩

theorem sameBlock_hostRead (s : State) (es : List HostEvent) (off : Nat) :
    sameBlock s (hostRead (setScript s es) off) := rfl

theorem sameBlock_countAccess (s : State) (es : List HostEvent) :
    sameBlock s (countAccess (setScript s es)) := rfl

theorem hostStep_keepsLegal {s t : State} {e : HostEvent} {rest : List HostEvent} (hs : Legal s)
    (h : hostStep s e rest = .next t) : Legal t := by
  rcases hostStep_cases h with ⟨sc, off, rfl, -⟩ | ⟨off, v, -, -, -, rfl⟩ | ⟨-, rfl⟩
  · exact hs.of_sameBlock (sameBlock_hostRead s sc off)
  · exact writeWord_legal (hs.of_sameBlock (sameBlock_countAccess s rest)) off v
  · exact takeReset_legal _

/-- Settles O43: one lemma for the engine's step, one for the host's. -/
theorem stepKeepsLegal : Obligations.StepKeepsLegal := by
  intro s t hs h
  rcases step_cases h with ⟨-, -, i, -, hexec⟩ | ⟨e, rest, -, -, hhost⟩ | rfl
  · exact exec_keepsLegal hs hexec
  · exact hostStep_keepsLegal hs hhost
  · exact hs

end Sys2Proof.Machine

/-!
PROOFS. The rest of 20_memory.md and 60_exceptions.md on single steps: accesses (R51, R57, R58), the
rise of the STATUS bits (R160), the frozen operands (R61) and the result registers (R62); the
engine's step (30_encoding.md R72), a reset while pending (70_reset_and_hazards.md R181) and the idle block
(60_exceptions.md R172).
-/

namespace Sys2Proof.Machine

/-! ### The engine's step and the idle block -/

theorem decode_of_decodeTableWord {nbits w : Nat} {i : Instr}
    (h : decodeTableWord nbits w = some i) : decode (BitVec.ofNat 32 (w % 2 ^ nbits)) = .ok i := by
  unfold decodeTableWord at h
  split at h
  case h_1 j hdecode =>
    cases h
    exact hdecode
  case h_2 => cases h

/-- Settles O4: with BUSY = 1 and no access owed the turn is the engine's, and `withFetchWord` makes
just such a state. -/
theorem stepRunsThePendingCommand : Obligations.StepRunsThePendingCommand := by
  refine ⟨fun s i hbusy hdue hi => step_of_turn_engine (turn_engine hbusy hdue) hi,
    fun s i nbits w h => ?_⟩
  exact step_of_turn_engine (turn_engine rfl (.inl rfl)) (decode_of_decodeTableWord h)

/-- Settles O52: with nothing pending and nothing to come, no one has the turn. -/
theorem idleBlockKeepsItsState : Obligations.IdleBlockKeepsItsState := by
  intro s hscript hidle
  have hturn : turn s = .idle := by simp [turn, hscript, hidle]
  refine ⟨step_of_turn_idle hturn, fun e he => ?_, hidle⟩
  rw [hscript] at he
  cases he

/-! ### A step that is a host access or a reset -/

/-- The step of an event whose turn has come. -/
theorem step_host {s : State} {e : HostEvent} {rest : List HostEvent}
    (hscript : s.script = e :: rest) (hturn : s.busy = true → 0 < s.delay) : step s = hostStep s e rest :=
  step_of_turn_host (turn_host hscript hturn)

theorem Access.inWindow_iff (a : Access) : a.inWindow = true ↔ a.offset < 0x400 :=
  decide_eq_true_iff

theorem Access.aligned32_iff (a : Access) :
    a.aligned32 = true ↔ a.width = 32 ∧ a.offset % 4 = 0 := by
  rw [Access.aligned32, Bool.and_eq_true, decide_eq_true_iff, decide_eq_true_iff]

theorem Access.wf_of_aligned {a : Access} (hwidth : a.width = 32) (halign : a.offset % 4 = 0)
    (hlt : a.offset < 0x400) : a.wf = true :=
  Bool.and_eq_true_iff.2 ⟨a.inWindow_iff.2 hlt, a.aligned32_iff.2 ⟨hwidth, halign⟩⟩

theorem step_read {s : State} {off : Nat} {rest : List HostEvent}
    (hscript : s.script = .access (.read 32 off) :: rest) (halign : off % 4 = 0) (hlt : off < 0x400)
    (hturn : s.busy = true → 0 < s.delay) :
    step s = .next (hostRead (setScript s rest) off) :=
  (step_host hscript hturn).trans (performAccess_wf _ (.read 32 off)
    (Access.wf_of_aligned rfl halign hlt))

theorem step_write {s : State} {off : Nat} {v : Word} {rest : List HostEvent}
    (hscript : s.script = .access (.write 32 off v) :: rest) (halign : off % 4 = 0)
    (hlt : off < 0x400) (hturn : s.busy = true → 0 < s.delay) :
    step s = .next (hostWrite (setScript s rest) off v) :=
  (step_host hscript hturn).trans (performAccess_wf _ (.write 32 off v)
    (Access.wf_of_aligned rfl halign hlt))

/-- No register word has a field of the model's own in it. -/
theorem readReg_of_sameBlock {s t : State} (h : sameBlock s t) (r : Reg) :
    readReg t r = readReg s r := by
  rw [sameBlock] at h
  rw [h]
  cases r with
  | octets arr j => cases arr <;> rfl
  | _ => rfl

theorem readWord_of_sameBlock {s t : State} (h : sameBlock s t) (off : Nat) :
    readWord t off = readWord s off := by
  cases hat : regAt off with
  | none => simp only [readWord, hat]
  | some r => simp only [readWord, hat, readReg_of_sameBlock h]

/-- Settles O35: a read step is `hostRead`, which changes only the model's own fields. -/
theorem readsChangeNothing : Obligations.ReadsChangeNothing :=
  fun _ _ _ hscript halign hlt hturn =>
    ⟨_, step_read hscript halign hlt hturn, rfl, rfl, rfl, rfl, readWord_of_sameBlock rfl⟩

/-- Settles O36: a write step is `hostWrite`, the dispatch behind `countAccess`. -/
theorem writeStepIsTheDispatch : Obligations.WriteStepIsTheDispatch :=
  fun _ _ _ _ hscript halign hlt hturn => step_write hscript halign hlt hturn

theorem performAccess_busError (s : State) {a : Access} (hlt : a.offset < 0x400)
    (hbad : a.width ≠ 32 ∨ a.offset % 4 ≠ 0) : performAccess s a = .fault (.busError a) := by
  have hwindow := (Access.inWindow_iff a).2 hlt
  have haligned := (Access.aligned32_iff a).not.2 (not_and_or.2 hbad)
  unfold performAccess
  rw [if_pos hwindow, if_neg haligned]

theorem performAccess_outside (s : State) {a : Access} (hle : 0x400 ≤ a.offset) :
    performAccess s a = .refused (.outsideWindow a) := by
  have hwindow := (Access.inWindow_iff a).not.2 (Nat.not_lt.2 hle)
  unfold performAccess
  rw [if_neg hwindow]

/-- Settles O38: the fault is `performAccess_busError`, and `busRead` looks at the window first. -/
theorem busErrorFaultsTheHost : Obligations.BusErrorFaultsTheHost := by
  refine ⟨fun s a rest hscript hturn hlt hbad =>
      (step_host hscript hturn).trans (performAccess_busError _ hlt hbad),
    fun s width off hlt hbad => ?bad, fun s off hlt halign => ?legal,
    fun s width off hle => ?outside⟩
  case bad =>
    have haligned := (Access.aligned32_iff (.read width off)).not.2 (not_and_or.2 hbad)
    rw [busRead, if_pos ((Access.inWindow_iff (.read width off)).2 hlt), if_neg haligned]
  case legal =>
    have haligned := (Access.aligned32_iff (.read 32 off)).2 ⟨rfl, halign⟩
    rw [busRead, if_pos ((Access.inWindow_iff (.read 32 off)).2 hlt), if_pos haligned]
  case outside =>
    rw [busRead, if_neg ((Access.inWindow_iff (.read width off)).not.2 (Nat.not_lt.2 hle))]

/-- Settles O39: `performAccess` looks at the window first. -/
theorem outsideTheWindowIsRefused : Obligations.OutsideTheWindowIsRefused :=
  fun _ _ _ hscript hturn hle => (step_host hscript hturn).trans (performAccess_outside _ hle)

/-- Settles O41: the reset's step is `takeReset`, whatever is pending. -/
theorem resetAbandonsThePendingCommand : Obligations.ResetAbandonsThePendingCommand :=
  fun _ _ hscript hturn => ⟨_, step_host hscript hturn, sameBlock_takeReset _, rfl, rfl⟩

/-! ### What raises a bit of STATUS (60_exceptions.md R160) -/

/-- A write raises neither DONE nor XRANGE, and BUSY only at the offset of CMD. -/
theorem writeWord_raises (s : State) (off : Nat) (v : Word) :
    ((writeWord s off v).busy = true → s.busy = true ∨ off = 0x008) ∧
      ((writeWord s off v).done = true → s.done = true) ∧
      ((writeWord s off v).xrange = true → s.xrange = true) := by
  rcases writeWord_cases s off v with
    ⟨h, -⟩ | ⟨-, h⟩ | ⟨hat, h⟩ | ⟨-, h⟩ | ⟨-, r, -, -, -, -, h⟩ <;> rw [h]
  · exact ⟨.inl, id, id⟩
  · exact ⟨.inl, fun hdone => (Bool.and_eq_true_iff.1 hdone).1,
      fun hx => (Bool.and_eq_true_iff.1 hx).1⟩
  · have hoff : off = 0x008 := regAt_eq_some_iff.1 hat
    rcases issueCommand_cases s v with ⟨c, h⟩ | ⟨-, h, -⟩ <;> rw [h]
    · simp [hoff]
    · exact ⟨fun _ => .inr hoff, nofun, id⟩
  · simp +contextual
  · simp +contextual

/-- Settles O34: the engine lowers BUSY and sets DONE, and raises XRANGE by `xOutOfRange` alone; of
the host's events a write alone raises any bit, by `writeWord_raises`. -/
theorem statusBitsRiseOnlyForTheirEvent : Obligations.StatusBitsRiseOnlyForTheirEvent := by
  intro s t h
  rcases step_cases h with ⟨hturn, hbusy, i, hi, hexec⟩ | ⟨e, rest, -, hscript, hhost⟩ | rfl
  case inl =>
    obtain ⟨herr, -, hidle, -, hxrange⟩ := exec_status hexec
    refine ⟨fun hs => by simp [hbusy] at hs, fun _ _ => ⟨hbusy, hturn⟩,
      fun hs ht => by simp [herr, hs] at ht, fun hs ht => ⟨hturn, ?_⟩⟩
    rcases hxrange with hsame | ⟨hinstr, hor⟩
    · simp [hsame, hs] at ht
    · rw [hor, hs, Bool.false_or, xOutOfRange, Bool.and_eq_true, decide_eq_true_eq,
        decide_eq_true_eq] at ht
      refine ⟨hinstr.imp ?_ ?_, ht⟩ <;>
      · rintro rfl
        exact hi
  case inr.inl =>
    rcases hostStep_cases hhost with ⟨sc, off, rfl, -⟩ | ⟨off, v, rfl, halign, hlt, rfl⟩ | ⟨-, rfl⟩
    · simp +contextual
    · obtain ⟨hbusy, hdone, hxrange⟩ := writeWord_raises (countAccess (setScript s rest)) off v
      refine ⟨fun hs ht => ?_, fun hs ht => ?_, fun _ _ => ⟨off, v, rest, hscript, halign, hlt⟩,
        fun hs ht => ?_⟩
      · rcases hbusy ht with hs' | rfl
        · exact absurd (hs.symm.trans hs') nofun
        · exact ⟨v, rest, hscript⟩
      · exact absurd (hs.symm.trans (hdone ht)) nofun
      · exact absurd (hs.symm.trans (hxrange ht)) nofun
    · simp
  case inr.inr => simp +contextual

/-! ### The host's step while BUSY (20_memory.md R61) -/

/-- While BUSY a write reaches only the STATUS bits. -/
theorem writeWord_of_busy {s : State} (hbusy : s.busy = true) (off : Nat) (v : Word) :
    writeWord s off v =
      { s with
        done := (writeWord s off v).done
        err := (writeWord s off v).err
        errcode := (writeWord s off v).errcode
        xrange := (writeWord s off v).xrange } := by
  rcases writeWord_cases s off v with ⟨h, -⟩ | ⟨-, h⟩ | ⟨-, h⟩ | ⟨-, h⟩ | ⟨hidle, -⟩
  · rw [h]
  · rw [h]
    rfl
  · rw [h, issueCommand_busy s v hbusy, reject_eq]
    rfl
  · rw [h, reject_eq]
  · simp [hbusy] at hidle

/-- While BUSY a host event other than a reset reaches only the STATUS bits and the model's own
fields. -/
theorem hostStep_of_busy {s t : State} {e : HostEvent} {rest : List HostEvent}
    (hbusy : s.busy = true) (hreset : e ≠ .reset) (h : hostStep s e rest = .next t) :
    t = { s with
          done := t.done, err := t.err, errcode := t.errcode, xrange := t.xrange,
          script := t.script, reads := t.reads, delay := s.delay - 1 } := by
  rcases hostStep_cases h with ⟨sc, off, rfl, -⟩ | ⟨off, v, -, -, -, rfl⟩ | ⟨he, -⟩
  · rfl
  · rw [writeWord_of_busy (s := countAccess (setScript s rest)) hbusy]
    rfl
  · exact absurd he hreset

/-- Settles O44: the host's turn is `hostStep`, and `hostStep_of_busy` its frame. -/
theorem operandsAreFrozenWhileBusy : Obligations.OperandsAreFrozenWhileBusy := by
  intro s t e rest hbusy hturn hreset h
  rw [step_of_turn_host hturn] at h
  exact hostStep_of_busy hbusy hreset h

/-! ### What changes a result register (20_memory.md R62, 42_framer.md R146) -/

theorem exec_results {i : Instr} {s t : State} (h : exec i s = .next t) :
    ((t.fbuf ≠ s.fbuf ∨ t.flen ≠ s.flen) → i = .build ∨ i = .encodeBuild) ∧
      (t.csum ≠ s.csum → i ≠ .encode) ∧
      (t.dstIp ≠ s.dstIp → i = .encode ∨ i = .encodeBuild) := by
  cases i <;> cases h <;> simp

theorem writeReg_dstIp_of_ne (s : State) {r : Reg} (v : Word) (h : ∀ j, r ≠ .octets .dstIp j) :
    (writeReg s r v).dstIp = s.dstIp := by
  cases r with
  | octets arr j =>
    cases arr with
    | dstIp => exact absurd rfl (h j)
    | _ => rfl
  | _ => rfl

/-- A write leaves FBUF, FLEN and CSUM, and changes DST_IP only at its four words and while idle. -/
theorem writeWord_results (s : State) (off : Nat) (v : Word) :
    (writeWord s off v).fbuf = s.fbuf ∧ (writeWord s off v).flen = s.flen ∧
      (writeWord s off v).csum = s.csum ∧
      ((writeWord s off v).dstIp ≠ s.dstIp → s.busy = false ∧ ∃ j < 4, off = 0x050 + 4 * j) := by
  rcases writeWord_cases s off v with
    ⟨h, -⟩ | ⟨-, h⟩ | ⟨-, h⟩ | ⟨-, h⟩ | ⟨hidle, r, hat, -, -, -, h⟩ <;> rw [h]
  · simp
  · simp
  · rcases issueCommand_cases s v with ⟨c, h⟩ | ⟨-, h, -⟩ <;> rw [h] <;> simp
  · simp
  · refine ⟨writeReg_fbuf s r v, writeReg_flen s r v, writeReg_csum s r v, fun hne => ⟨hidle, ?_⟩⟩
    by_cases hr : ∃ j, r = .octets .dstIp j
    · obtain ⟨j, rfl⟩ := hr
      exact ⟨j.val, j.isLt, regAt_eq_some_iff.1 hat⟩
    · exact absurd (writeReg_dstIp_of_ne s v fun j hj => hr ⟨j, hj⟩) hne

/-- Settles O45: `exec_results` for the engine, `writeWord_results` for the host. -/
theorem resultsChangeOnlyByTheirCommand : Obligations.ResultsChangeOnlyByTheirCommand := by
  intro s t h hreset
  rcases step_cases h with ⟨hturn, -, i, hi, hexec⟩ | ⟨e, rest, -, hscript, hhost⟩ | rfl
  case inl =>
    obtain ⟨hframe, hcsum, hdst⟩ := exec_results hexec
    simp only [hturn, hi, Except.ok.injEq, true_and]
    exact ⟨hframe, fun hne he => hcsum hne (Except.ok.inj he), fun hne => .inl (hdst hne)⟩
  case inr.inl =>
    rcases hostStep_cases hhost with ⟨sc, off, rfl, -⟩ | ⟨off, v, rfl, -, -, rfl⟩ | ⟨rfl, -⟩
    · simp
    · obtain ⟨hfbuf, hflen, hcsum, hdst⟩ := writeWord_results (countAccess (setScript s rest)) off v
      refine ⟨fun hne => ?_, fun hne => absurd hcsum hne, fun hne => .inr ?_⟩
      · exact absurd hne (not_or.2 ⟨not_not.2 hfbuf, not_not.2 hflen⟩)
      · obtain ⟨hidle, j, hj, rfl⟩ := hdst hne
        exact ⟨j, v, rest, hj, hidle, hscript⟩
    · exact absurd hscript (hreset rest)
  case inr.inr => simp

end Sys2Proof.Machine

/-!
PROOFS. Runs of many steps: a pending command completes (70_reset_and_hazards.md R188), and the
pseudo-operations of host scripts (30_encoding.md R77): the two waits, `wbytes` and `rbytes`.
-/

namespace Sys2Proof.Machine

/-! ### States that differ in the model's own fields only -/

theorem sameBlock_iff {s t : State} :
    sameBlock s t ↔ ∃ script reads delay accepted,
      t = { s with script := script, reads := reads, delay := delay, accepted := accepted } := by
  constructor
  · intro h
    exact ⟨_, _, _, _, h⟩
  · rintro ⟨script, reads, delay, accepted, rfl⟩
    rfl

theorem sameBlock.trans {s t u : State} (hst : sameBlock s t) (htu : sameBlock t u) :
    sameBlock s u := by
  obtain ⟨_, _, _, _, rfl⟩ := sameBlock_iff.1 hst
  obtain ⟨_, _, _, _, rfl⟩ := sameBlock_iff.1 htu
  rfl

theorem sameBlock.busy {s t : State} (h : sameBlock s t) : t.busy = s.busy := by
  obtain ⟨_, _, _, _, rfl⟩ := sameBlock_iff.1 h
  rfl

theorem sameBlock.done {s t : State} (h : sameBlock s t) : t.done = s.done := by
  obtain ⟨_, _, _, _, rfl⟩ := sameBlock_iff.1 h
  rfl

theorem sameBlock.getArray {s t : State} (h : sameBlock s t) (arr : OctetArray) :
    getArray t arr = getArray s arr := by
  obtain ⟨_, _, _, _, rfl⟩ := sameBlock_iff.1 h
  cases arr <;> rfl

theorem sameBlock.setArray {s t : State} (h : sameBlock s t) (arr : OctetArray)
    (F : Octets arr.length) : sameBlock (setArray s arr F) (setArray t arr F) := by
  obtain ⟨_, _, _, _, rfl⟩ := sameBlock_iff.1 h
  cases arr <;> rfl

/-! ### A pending command completes (70_reset_and_hazards.md R188, 20_memory.md R61) -/

/-- An engine step that is due completes the pending command. -/
theorem run_one_engine {s t : State} {i : Instr} (hturn : turn s = .engine)
    (hi : pendingInstr s = .ok i) (hexec : exec i s = .next t) :
    Sys2Proof.core.run 1 s = .next t :=
  run_succ 0 s t ((step_of_turn_engine hturn hi).trans hexec)

/-- Every event of a quiet script is performed, and is done, or is a wait that goes on. -/
theorem hostStep_completes (s : State) {e : HostEvent} (rest : List HostEvent)
    (hwf : e.wf = true) (hbusy : s.busy = true) (hreset : e ≠ .reset) :
    ∃ t, hostStep s e rest = .next t ∧ (t.script = rest ∨ t.script = s.script) := by
  cases e with
  | access a =>
    refine ⟨_, performAccess_wf _ a hwf, .inl ?_⟩
    cases a with
    | read w off => rfl
    | write w off v =>
      exact congrArg State.script
        (writeWord_of_busy (s := countAccess (setScript s rest)) hbusy off v)
  | wait =>
    rw [hostStep]
    split
    · exact ⟨_, rfl, .inl rfl⟩
    · exact ⟨_, rfl, .inr rfl⟩
  | waitdone =>
    rw [hostStep]
    split
    · exact ⟨_, rfl, .inl rfl⟩
    · exact ⟨_, rfl, .inr rfl⟩
  | reset => exact absurd rfl hreset

/-- `t` is `s` but for what the host may touch while a command is pending. -/
def SameButHostSide (s t : State) : Prop :=
  t = { s with
        done := t.done, err := t.err, errcode := t.errcode, xrange := t.xrange,
        script := t.script, reads := t.reads, delay := t.delay }

/-- No command reads what the host may touch meanwhile, but for the XRANGE it adds to. -/
theorem exec_of_sameButHostSide (i : Instr) {s s' u' : State} (h : SameButHostSide s s')
    (hu' : exec i s' = .next u') :
    ∃ u, exec i s = .next u ∧
      u' = { u with
             err := u'.err, errcode := u'.errcode, xrange := u'.xrange,
             script := u'.script, reads := u'.reads, delay := u'.delay } := by
  rw [SameButHostSide] at h
  generalize s'.done = done, s'.err = err, s'.errcode = errcode, s'.xrange = xrange,
    s'.script = script, s'.reads = reads, s'.delay = delay at h
  subst h
  cases i <;> cases hu' <;> exact ⟨_, rfl, rfl⟩

theorem delay_pos_of_turn_host {s : State} {e : HostEvent} {rest : List HostEvent}
    (hbusy : s.busy = true) (hturn : turn s = .host e rest) : 0 < s.delay := by
  by_contra hdelay
  rw [turn_engine hbusy (.inl (by omega))] at hturn
  cases hturn

theorem quietScript_of_eq {es rest : List HostEvent} {e : HostEvent} {new : List HostEvent}
    (h : quietScript es) (hes : es = e :: rest) (hnew : new = rest ∨ new = es) :
    quietScript new := by
  subst hes
  rcases hnew with rfl | rfl
  · exact fun e' he' => h e' (List.mem_cons_of_mem _ he')
  · exact h

/-- A step before the engine's leaves the command pending, with one access less owed before it. -/
theorem step_while_pending {s : State} {i : Instr} (hbusy : s.busy = true)
    (hi : pendingInstr s = .ok i) (hquiet : quietScript s.script) (hturn : turn s ≠ .engine) :
    0 < s.delay ∧ ∃ t, step s = .next t ∧ SameButHostSide s t ∧ t.delay = s.delay - 1 ∧
      t.busy = true ∧ pendingInstr t = .ok i ∧ quietScript t.script := by
  rcases turn_cases s with ⟨hengine, -⟩ | ⟨e, rest, hhost, hscript⟩ | ⟨-, -, hidle⟩
  · exact absurd hengine hturn
  · obtain ⟨hwf, hreset⟩ := hquiet e (hscript ▸ List.mem_cons_self)
    obtain ⟨t, ht, hrest⟩ := hostStep_completes s rest hwf hbusy hreset
    have heq := hostStep_of_busy hbusy hreset ht
    have hdelay : t.delay = s.delay - 1 := congrArg State.delay heq
    have hop : t.pendingOp = s.pendingOp := by rw [heq]
    refine ⟨delay_pos_of_turn_host hbusy hhost, t, (step_of_turn_host hhost).trans ht,
      by rwa [SameButHostSide, hdelay], hdelay, (congrArg State.busy heq).trans hbusy, ?_,
      quietScript_of_eq hquiet hscript hrest⟩
    rwa [pendingInstr, hop]
  · exact absurd (hbusy.symm.trans hidle) nofun

/-- Settles O46, by induction on the accesses still owed before the engine's step. -/
theorem pendingCommandCompletesUnchanged : Obligations.PendingCommandCompletesUnchanged := by
  intro s i
  induction hd : s.delay using Nat.strong_induction_on generalizing s with
  | h d ih =>
    intro hbusy hi hquiet
    by_cases hturn : turn s = .engine
    case pos =>
      obtain ⟨t, hexec, -⟩ := exec_completes i s
      exact ⟨1, t, t, by omega, run_one_engine hturn hi hexec, hexec, rfl⟩
    case neg =>
      obtain ⟨hpos, s', hstep, hsame, hdelay, hbusy', hi', hquiet'⟩ :=
        step_while_pending hbusy hi hquiet hturn
      obtain ⟨n, t, u', hn, hrun, hexec, ht⟩ := ih s'.delay (by omega) s' rfl hbusy' hi' hquiet'
      obtain ⟨u, hu, hu'⟩ := exec_of_sameButHostSide i hsame hexec
      refine ⟨n + 1, t, u, by omega, (run_succ n s s' hstep).trans hrun, hu, ?_⟩
      rw [hu'] at ht
      exact ht

/-! ### One poll of a wait (30_encoding.md R77) -/

/-- A poll after which the host goes on with the events behind the wait. -/
def lastPoll (s : State) (rest : List HostEvent) : State :=
  hostRead (setScript s rest) (regOffset .status)

/-- A poll after which the host polls again. -/
def poll (s : State) : State := hostRead s (regOffset .status)

theorem sameBlock_lastPoll (s : State) (rest : List HostEvent) : sameBlock s (lastPoll s rest) :=
  rfl

theorem sameBlock_poll (s : State) : sameBlock s (poll s) := rfl

theorem waitEnds_statusWord (s : State) : waitEnds (statusWord s) = (s.done || s.err) := by
  obtain ⟨hdone, herr⟩ := statusWord_done_err s
  rw [waitEnds, hdone, herr]

theorem waitdoneEnds_statusWord (s : State) : waitdoneEnds (statusWord s) = s.done :=
  (statusWord_done_err s).1

theorem step_wait {s : State} {rest : List HostEvent} (hscript : s.script = .wait :: rest)
    (hturn : s.busy = true → 0 < s.delay) :
    step s = .next (if s.done || s.err then lastPoll s rest else poll s) := by
  rw [step_host hscript hturn, hostStep, waitEnds_statusWord]
  split <;> rfl

theorem step_waitdone {s : State} {rest : List HostEvent} (hscript : s.script = .waitdone :: rest)
    (hturn : s.busy = true → 0 < s.delay) :
    step s = .next (if s.done then lastPoll s rest else poll s) := by
  rw [step_host hscript hturn, hostStep, waitdoneEnds_statusWord]
  split <;> rfl

/-- Settles O48: an idle block at `waitdone` with DONE = 0 polls, and stays such a block. -/
theorem waitdoneWithoutACommandNeverEnds : Obligations.WaitdoneWithoutACommandNeverEnds := by
  intro s rest hidle hdone hscript n
  refine run_of_step (P := fun t => t.script = .waitdone :: rest ∧ sameBlock s t)
    (fun t ⟨ht, hsame⟩ => ⟨poll t, ?_, ht, hsame.trans (sameBlock_poll t)⟩) n ⟨hscript, rfl⟩
  have hturn : t.busy = true → 0 < t.delay := fun hbusy =>
    absurd (hbusy.symm.trans (hsame.busy.trans hidle)) nofun
  rw [step_waitdone ht hturn, hsame.done, hdone]
  rfl

/-! ### A wait with a command pending (R77, 70_reset_and_hazards.md R188) -/

/-- Polls are no operand of a command. -/
theorem exec_poll (i : Instr) {s u' : State} (h : exec i (poll s) = .next u') :
    ∃ u, exec i s = .next u ∧ sameBlock u u' := by
  cases i <;> cases h <;> exact ⟨_, rfl, rfl⟩

/-- The engine's step, when due, leaves an idle block with DONE = 1 and the events still to come. -/
theorem run_engine {s : State} {i : Instr} (hturn : turn s = .engine)
    (hi : pendingInstr s = .ok i) :
    ∃ u, exec i s = .next u ∧ Sys2Proof.core.run 1 s = .next u ∧ u.busy = false ∧ u.done = true ∧
      u.script = s.script := by
  obtain ⟨u, hexec, hidle, hkept⟩ := exec_completes i s
  obtain ⟨-, -, -, hdone, -⟩ := exec_status hexec
  exact ⟨u, hexec, run_one_engine hturn hi hexec, hidle, hdone, hkept⟩

/-- `waitdone` with a command pending ends with the command's results, by induction on the accesses
owed before the engine. -/
theorem run_waitdone_pending {s : State} {i : Instr} {rest : List HostEvent}
    (hbusy : s.busy = true) (hdone : s.done = false) (hi : pendingInstr s = .ok i)
    (hscript : s.script = .waitdone :: rest) :
    ∃ (n : Nat) (t u : State), Sys2Proof.core.run n s = .next t ∧ exec i s = .next u ∧
      t.script = rest ∧ sameBlock u t := by
  induction hd : s.delay generalizing s with
  | zero =>
    obtain ⟨u, hexec, hrun, hidle, hdone', hkept⟩ := run_engine (turn_engine hbusy (.inl hd)) hi
    have hpoll := step_waitdone (hkept.trans hscript) fun hbusy' => by simp [hidle] at hbusy'
    rw [hdone', if_pos rfl] at hpoll
    exact ⟨2, _, u, run_snoc 1 s u _ hrun hpoll, hexec, rfl, sameBlock_lastPoll u rest⟩
  | succ d ih =>
    have hstep := step_waitdone hscript fun _ => by omega
    rw [hdone] at hstep
    obtain ⟨n, t, u', hrun, hexec, ht, hsame⟩ := ih (s := poll s) hbusy hdone hi hscript
      (show s.delay - 1 = d by omega)
    obtain ⟨u, hu, huu'⟩ := exec_poll i hexec
    exact ⟨n + 1, t, u, (run_succ n s _ hstep).trans hrun, hu, ht, huu'.trans hsame⟩

/-- The state in which the command that the host issues next is pending. -/
def issued (s : State) (i : Instr) (rest : List HostEvent) : State :=
  acceptCommand (clearDone (countAccess (setScript s rest))) (opcode i)

/-- The CMD write of a command that the checks let through. -/
theorem step_command {s : State} {i : Instr} {rest : List HostEvent} (hidle : s.busy = false)
    (hplen : i = .csum → s.plen.toNat ≤ 64) (hscript : s.script = command i :: rest) :
    step s = .next (issued s i rest) := by
  have hop : opField (encode i) = opcode i := by rw [encode_eq_append, opField_append]
  have hwrite := step_write (v := encode i) hscript rfl (by decide) fun hbusy => by
    simp [hidle] at hbusy
  rwa [hostWrite, show regOffset .cmd = 0x008 from rfl, writeWord_cmd,
    issueCommand_accepted (countAccess (setScript s rest)) _ hidle (decode_encode i) hplen,
    hop] at hwrite

/-- What acceptance changes is no operand: PLEN within the buffer keeps CSUM off the free octets. -/
theorem exec_issued {s u' : State} {i : Instr} {rest : List HostEvent}
    (hplen : i = .csum → s.plen.toNat ≤ 64) (h : exec i (issued s i rest) = .next u') :
    ∃ u, exec i s = .next u ∧ sameBlock { u with pendingOp := opcode i } u' := by
  cases i with
  | csum =>
    have hpayload : payload (issued s .csum rest) = payload s :=
      payload_congr rfl (hplen rfl) fun _ _ => rfl
    rw [exec_csum, hpayload] at h
    cases h
    exact ⟨_, exec_csum s, rfl⟩
  | encode =>
    cases h
    exact ⟨_, exec_encode s, rfl⟩
  | build =>
    cases h
    exact ⟨_, exec_build s, rfl⟩
  | encodeBuild =>
    cases h
    exact ⟨_, exec_encodeBuild s, rfl⟩

/-- Settles O47: the CMD write, then `run_waitdone_pending`, for every delay. -/
theorem commandThenWaitdoneDelivers : Obligations.CommandThenWaitdoneDelivers := by
  intro s i rest hidle hplen hscript
  obtain ⟨n, t, u', hrun, hexec, ht, hsame⟩ :=
    run_waitdone_pending (s := issued s i (.waitdone :: rest)) rfl rfl (decodeOp_opcode i) rfl
  obtain ⟨u, hu, huu'⟩ := exec_issued hplen hexec
  exact ⟨n + 1, t, u, (run_succ n s _ (step_command hidle hplen hscript)).trans hrun, hu, ht,
    huu'.trans hsame⟩

/-- `wait` with a command pending ends: at once with DONE or ERR, else after the engine's step. -/
theorem run_wait_pending {s : State} {i : Instr} {rest : List HostEvent} (hbusy : s.busy = true)
    (hi : pendingInstr s = .ok i) (hscript : s.script = .wait :: rest) :
    ∃ (n : Nat) (t : State), Sys2Proof.core.run n s = .next t ∧ t.script = rest := by
  induction hd : s.delay generalizing s with
  | zero =>
    obtain ⟨u, -, hrun, hidle, hdone, hkept⟩ := run_engine (turn_engine hbusy (.inl hd)) hi
    have hpoll := step_wait (hkept.trans hscript) fun hbusy' => by simp [hidle] at hbusy'
    rw [hdone, Bool.true_or, if_pos rfl] at hpoll
    exact ⟨2, _, run_snoc 1 s u _ hrun hpoll, rfl⟩
  | succ d ih =>
    have hstep := step_wait hscript fun _ => by omega
    by_cases hends : (s.done || s.err) = true
    · rw [if_pos hends] at hstep
      exact ⟨1, _, run_succ 0 s _ hstep, rfl⟩
    · rw [if_neg hends] at hstep
      obtain ⟨n, t, hrun, ht⟩ := ih (s := poll s) hbusy hi hscript (show s.delay - 1 = d by omega)
      exact ⟨n + 1, t, (run_succ n s _ hstep).trans hrun, ht⟩

/-- Settles O49: a legal pending state has a command, which `run_wait_pending` waits for; ERR ends
the wait at one poll. (`waitEnds` itself is the model's condition of one poll.) -/
theorem waitEndsOnDoneOrErr : Obligations.WaitEnds := by
  refine ⟨fun s rest hlegal hbusy hscript => ?pending, fun s rest herr hscript hturn => ?err⟩
  case pending =>
    obtain ⟨-, i, hi, -⟩ := hlegal.pending hbusy
    exact run_wait_pending hbusy hi hscript
  case err =>
    refine ⟨lastPoll s rest, ?_, rfl, rfl⟩
    rw [step_wait hscript hturn, herr, Bool.or_true, if_pos rfl]

/-! ### A run over a list of events -/

/-- A property that the step of each event passes on, counted by the events performed, holds once
they are all performed. -/
theorem run_events {Q : Nat → State → Prop} {f : Nat → HostEvent} {m : Nat}
    (hstep : ∀ j < m, ∀ t rest, t.script = f j :: rest → Q j t →
      ∃ u, step t = .next u ∧ u.script = rest ∧ Q (j + 1) u)
    {s : State} {rest : List HostEvent} (hscript : s.script = (List.range m).map f ++ rest)
    (h0 : Q 0 s) : ∃ t, Sys2Proof.core.run m s = .next t ∧ t.script = rest ∧ Q m t := by
  induction m generalizing rest with
  | zero => exact ⟨s, rfl, hscript, h0⟩
  | succ m ih =>
    rw [List.range_succ, List.map_append, List.append_assoc] at hscript
    obtain ⟨t, hrun, ht, hQ⟩ := ih (fun j hj => hstep j (by omega)) hscript
    obtain ⟨u, hu, hrest, hQ'⟩ := hstep m (by omega) t rest ht hQ
    exact ⟨u, run_snoc m s t u hrun hu, hrest, hQ'⟩

theorem regOffset_octets_legal (arr : OctetArray) (j : Fin arr.words) :
    regOffset (.octets arr j) % 4 = 0 ∧ regOffset (.octets arr j) < 0x400 := by
  revert j
  cases arr <;> decide

/-! ### wbytes (R77 with 20_memory.md R55) -/

/-- The array with its first `j` words taken from the list, "missing octets 0". -/
def withOctets {n : Nat} (F : Octets n) (os : List Byte) (j : Nat) : Octets n :=
  Vector.ofFn fun k : Fin n => if k.val < 4 * j then listOctet os k else F[k]

theorem getElem_withOctets {n : Nat} (F : Octets n) (os : List Byte) (j : Nat) {k : Nat}
    (h : k < n) :
    (withOctets F os j)[k] = if k < 4 * j then listOctet os k else F[k] := by
  simp [withOctets]

theorem withOctets_zero {n : Nat} (F : Octets n) (os : List Byte) : withOctets F os 0 = F := by
  refine Vector.ext fun k hk => ?_
  rw [getElem_withOctets F os 0 hk, if_neg (by omega)]

/-- The word of the list that `wbytes` writes to word `j`. -/
def listWord (os : List Byte) (j : Nat) : Word :=
  wordOf (listOctet os (4 * j)) (listOctet os (4 * j + 1)) (listOctet os (4 * j + 2))
    (listOctet os (4 * j + 3))

theorem byteOf_listWord (os : List Byte) {j k : Nat} (h : k / 4 = j) :
    byteOf (listWord os j) (k % 4) = listOctet os k := by
  obtain ⟨h0, h1, h2, h3⟩ := byteOf_wordOf (listOctet os (4 * j)) (listOctet os (4 * j + 1))
    (listOctet os (4 * j + 2)) (listOctet os (4 * j + 3))
  obtain hk | hk | hk | hk : k % 4 = 0 ∨ k % 4 = 1 ∨ k % 4 = 2 ∨ k % 4 = 3 := by omega
  · rw [hk, show k = 4 * j by omega]
    exact h0
  · rw [hk, show k = 4 * j + 1 by omega]
    exact h1
  · rw [hk, show k = 4 * j + 2 by omega]
    exact h2
  · rw [hk, show k = 4 * j + 3 by omega]
    exact h3

theorem writeOctets_withOctets {n : Nat} (F : Octets n) (os : List Byte) (j : Nat) :
    writeOctets (withOctets F os j) j (listWord os j) = withOctets F os (j + 1) := by
  refine Vector.ext fun k hk => ?_
  rw [getElem_writeOctets _ _ _ hk, getElem_withOctets F os j hk, getElem_withOctets F os _ hk]
  split
  case isTrue hword => rw [byteOf_listWord os hword, if_pos (by omega)]
  case isFalse hword =>
    split
    case isTrue hlow => rw [if_pos (by omega)]
    case isFalse hhigh => rw [if_neg (by omega)]

/-- One write of `wbytes` on an idle block. -/
theorem step_write_octets {s : State} {arr : OctetArray} {j : Fin arr.words} {v : Word}
    {rest : List HostEvent} (hidle : s.busy = false) (hfbuf : arr ≠ .fbuf)
    (hscript : s.script = .access (.write 32 (regOffset (.octets arr j)) v) :: rest) :
    step s = .next (setArray (countAccess (setScript s rest)) arr
      (writeOctets (getArray s arr) j v)) := by
  obtain ⟨halign, hlt⟩ := regOffset_octets_legal arr j
  have harray : getArray (countAccess (setScript s rest)) arr = getArray s arr :=
    (sameBlock_countAccess s rest).getArray arr
  rw [step_write hscript halign hlt fun hbusy => by simp [hidle] at hbusy, hostWrite,
    writeWord_regOffset (s := countAccess (setScript s rest)) v hidle
      (readOnly_octets hfbuf j) nofun nofun, writeReg_octets _ arr hfbuf, harray]

/-- What `wbytes` has done after `j` of its writes. -/
def WbytesDone (s : State) (arr : OctetArray) (os : List Byte) (j : Nat) (t : State) : Prop :=
  sameBlock (setArray s arr (withOctets (getArray s arr) os j)) t

theorem wbytesDone_zero (s : State) (arr : OctetArray) (os : List Byte) :
    WbytesDone s arr os 0 s := by
  rw [WbytesDone, withOctets_zero, setArray_getArray]
  rfl

theorem wbytesDone_step {s t : State} {arr : OctetArray} {os : List Byte} {j : Fin arr.words}
    {rest : List HostEvent} (hidle : s.busy = false) (hfbuf : arr ≠ .fbuf)
    (hdone : WbytesDone s arr os j t)
    (hscript : t.script = .access (.write 32 (regOffset (.octets arr j)) (listWord os j)) :: rest) :
    ∃ u, step t = .next u ∧ u.script = rest ∧ WbytesDone s arr os (j + 1) u := by
  have hbusy : t.busy = false := hdone.busy.trans ((setArray_busy _ _ _).trans hidle)
  have harray : getArray t arr = withOctets (getArray s arr) os j :=
    (hdone.getArray arr).trans (getArray_setArray _ _ _)
  have hstep := step_write_octets hbusy hfbuf hscript
  have hsame := (hdone.trans (sameBlock_countAccess t rest)).setArray arr
    (withOctets (getArray s arr) os (j + 1))
  rw [harray, writeOctets_withOctets] at hstep
  rw [setArray_setArray] at hsame
  exact ⟨_, hstep, setArray_script _ _ _, hsame⟩

/-- Settles O50: each write makes one word more of `withOctets`. -/
theorem wbytesSetsTheOctets : Obligations.WbytesSetsTheOctets := by
  intro s arr os rest hidle hfbuf hlen hscript
  have hwords (j : Nat) (hj : j < wordCount os.length) : j < arr.words := by
    rw [wordCount] at hj
    omega
  obtain ⟨t, hrun, ht, hdone⟩ := run_events (Q := WbytesDone s arr os)
    (fun j hj t es hes hdone => wbytesDone_step (j := ⟨j, hwords j hj⟩) hidle hfbuf hdone hes)
    hscript (wbytesDone_zero s arr os)
  exact ⟨t, _, hrun, ht, hdone, fun k hk => getElem_withOctets (getArray s arr) os _ hk⟩

/-! ### rbytes (R77 with 20_memory.md R54) -/

theorem wordOctets_readOctets {n : Nat} (F : Octets n) (j : Nat) :
    wordOctets (readOctets F j) =
      [oct F (4 * j), oct F (4 * j + 1), oct F (4 * j + 2), oct F (4 * j + 3)] := by
  obtain ⟨h0, h1, h2, h3⟩ := byteOf_wordOf (oct F (4 * j)) (oct F (4 * j + 1))
    (oct F (4 * j + 2)) (oct F (4 * j + 3))
  rw [wordOctets, readOctets, h0, h1, h2, h3]

theorem flatMap_wordOctets_readOctets {n : Nat} (F : Octets n) (m : Nat) :
    ((List.range m).map (readOctets F)).flatMap wordOctets = (List.range (4 * m)).map (oct F) := by
  induction m with
  | zero => rfl
  | succ m ih =>
    rw [List.range_succ, List.map_append, List.flatMap_append, ih, Nat.mul_succ]
    simp [List.range_succ, wordOctets_readOctets]

/-- The words of an array, unpacked, are its octets. -/
theorem unpackWords_readOctets {n : Nat} (F : Octets n) (m : Nat) :
    unpackWords ((List.range (wordCount m)).map (readOctets F)) m = (List.range m).map (oct F) := by
  have hle : m ≤ 4 * wordCount m := by
    rw [wordCount]
    omega
  rw [unpackWords, flatMap_wordOctets_readOctets, ← List.map_take, List.take_range,
    Nat.min_eq_left hle]

/-- The reads of the first `j` words of an array, newest first. -/
def arrayReads (s : State) (arr : OctetArray) (j : Nat) : List (Nat × Word) :=
  ((List.range j).map fun i => (arrayBase arr + 4 * i, readOctets (getArray s arr) i)).reverse

theorem arrayReads_succ (s : State) (arr : OctetArray) (j : Nat) :
    arrayReads s arr (j + 1) =
      (arrayBase arr + 4 * j, readOctets (getArray s arr) j) :: arrayReads s arr j := by
  rw [arrayReads, List.range_succ, List.map_append, List.reverse_append]
  rfl

theorem rbytesResult_arrayReads (s : State) (arr : OctetArray) (n : Nat)
    (reads : List (Nat × Word)) :
    rbytesResult (arrayReads s arr (wordCount n) ++ reads) n =
      (List.range n).map (oct (getArray s arr)) := by
  have hlen : (arrayReads s arr (wordCount n)).length = wordCount n := by simp [arrayReads]
  rw [rbytesResult, List.take_left' hlen, arrayReads, List.reverse_reverse, List.map_map]
  exact unpackWords_readOctets (getArray s arr) n

/-- What `rbytes` has done after `j` of its reads. -/
structure RbytesDone (s : State) (arr : OctetArray) (j : Nat) (t : State) : Prop where
  block : sameBlock s t
  delay : t.delay = s.delay - j
  reads : t.reads = arrayReads s arr j ++ s.reads

theorem rbytesDone_step {s t : State} {arr : OctetArray} {j : Fin arr.words}
    {rest : List HostEvent} (hdue : s.busy = true → j < s.delay) (hdone : RbytesDone s arr j t)
    (hscript : t.script = .access (.read 32 (regOffset (.octets arr j))) :: rest) :
    ∃ u, step t = .next u ∧ u.script = rest ∧ RbytesDone s arr (j + 1) u := by
  obtain ⟨hsame, hdelay, hreads⟩ := hdone
  obtain ⟨halign, hlt⟩ := regOffset_octets_legal arr j
  have hturn : t.busy = true → 0 < t.delay := fun hbusy => by
    have := hdue (hsame.busy.symm.trans hbusy)
    omega
  have hread : readWord t (regOffset (.octets arr j)) = readOctets (getArray s arr) j := by
    rw [readWord_of_sameBlock hsame, readWord_regOffset, readReg]
  refine ⟨_, step_read hscript halign hlt hturn, rfl,
    hsame.trans (sameBlock_hostRead t rest _), ?delay, ?reads⟩
  case delay =>
    rw [hostRead_delay, setScript_delay, hdelay]
    omega
  case reads =>
    rw [arrayReads_succ, List.cons_append, ← hreads, ← hread]
    rfl

/-- Settles O51: each read adds one word to `arrayReads` and takes one access owed. -/
theorem rbytesGivesTheOctets : Obligations.RbytesGivesTheOctets := by
  intro s arr n rest hn hdue hscript
  have hwords (j : Nat) (hj : j < wordCount n) : j < arr.words := by
    rw [wordCount] at hj
    omega
  obtain ⟨t, hrun, ht, hdone⟩ := run_events (Q := RbytesDone s arr)
    (fun j hj t es hes hdone => rbytesDone_step (j := ⟨j, hwords j hj⟩)
      (fun hbusy => hj.trans_le (hdue hbusy)) hdone hes)
    hscript ⟨rfl, rfl, rfl⟩
  exact ⟨t, hrun, ht, hdone.block, by rw [hdone.reads, rbytesResult_arrayReads]⟩

end Sys2Proof.Machine
